-- ==== Sys2Proof/Word.lean ====
section
/-! DEFINITION. The engine's plainest data: bytes, 32-bit fields, and the BitVector of
spec/00_scope.md R10. -/

namespace Sys2Proof

/-- A byte of a frame or of an SPI transaction (R11), and an 8-bit opcode. -/
abbrev Byte := BitVec 8

/-- A 32-bit field: the scalars `a` and `b` of a host frame (R80), an id code, a status word. -/
abbrev Word32 := BitVec 32

/-- R10: a BitVector is a length in bits (any natural) and an unsigned value below `2 ^ len`.
Bit 0 of the value is the first bit of the native shift order (R131). -/
structure BitVector where
  len : Nat
  val : Nat
  deriving DecidableEq, Repr, Inhabited

end Sys2Proof
end

