-- ==== Sys2Proof/Config.lean ====
section
/-! DEFINITION. What an implementation fixes (the parameters of spec/00_scope.md R8) and the free
answers of the two oracles, the target and the clock (R6). A value the source or a decision of the
spec gives is a number; a general-knowledge default is the number of R8, marked PRESUMED
(log 11); an OPEN parameter is an opaque constant, so that nothing can be proved of its value
(log 10). -/

namespace Sys2Proof

/-- What the link can answer to one tick (R52, R262). -/
inductive LinkAnswer where
  /-- one TDO bit -/
  | bit (tdo : Bool)
  /-- the target does not implement the request -/
  | notSupported
  /-- an I/O failure of the link -/
  | io
  /-- no answer within `T_CTRL_TIMEOUT` -/
  | timeout
  /-- anything else -/
  | malformed
  deriving DecidableEq, Repr, Inhabited

/-- What the direct SPI pins can answer to one exchange (R248, R262). An answer whose length is
not that of the bytes sent is a malformed one (log 9). -/
inductive SpiAnswer where
  | bytes (received : List Byte)
  | notSupported
  | io
  | timeout
  | malformed
  deriving DecidableEq, Repr, Inhabited

/-- `P_RESTART_MODE` (R8, R192). -/
inductive RestartMode where
  | refresh
  | programPin
  deriving DecidableEq, Repr, Inhabited

/-- `P_SPI_VARIANT` (R8, R245). -/
inductive SpiVariant where
  | tunneled
  | direct
  deriving DecidableEq, Repr, Inhabited

/-- One row of `PART_TABLE` (R8, R37, R152): an IDCODE, its family and its part name. -/
structure PartRow where
  idcode : Word32
  family : String
  name : String
  deriving DecidableEq, Repr, Inhabited

/-- The parameters of R8 that are not fixed by the source or by a decision. Every operation that
needs one takes them as an argument, so that it can be read, and tested, at any values; the engine
itself runs at `Config.params`. -/
structure Params where
  -- JTAG instruction opcodes, all of 8 bits
  opcPreconf : Byte
  opcReadId : Byte
  opcLscReadStatus : Byte
  opcIscEnable : Byte
  opcIscDisable : Byte
  opcIscErase : Byte
  opcLscRefresh : Byte
  opcLscInitAddress : Byte
  opcLscBitstreamBurst : Byte
  opcLscEnterBackgroundSpi : Byte
  opcVerifyId : Byte
  opcMetaIr : Byte
  opcMetaDr : Byte
  opcSpiDebug : Byte
  -- command operands, shifted bit 0 first
  opdPreconf : BitVector
  opdIscEnable : BitVector
  opdIscErase : BitVector
  opdInitAddress : BitVector
  opdBgspiUnlock : BitVector
  -- status register bit positions (R34, R90)
  stDone : Nat
  stIscEnable : Nat
  stWritable : Nat
  stReadable : Nat
  stBusy : Nat
  stFail : Nat
  stSpiFail : Nat
  stErrcodeLo : Nat
  stIdError : Nat
  stInvalidCommand : Nat
  -- flash command bytes and status bits (R36, R94)
  flJedecId : Byte
  flWriteEnable : Byte
  flChipErase : Byte
  flWritePage : Byte
  flReadPage : Byte
  flReadStatus : Byte
  flWriteStatus : Byte
  flReadUid : Byte
  flStBusy : Nat
  flStWel : Nat
  -- timing and counts
  tCtrlTimeout : Nat
  tLongTimeout : Nat
  tPollSleep : Nat
  tSettle : Nat
  nCmdIdle : Nat
  nCfgIdle : Nat
  nReconfIdle : Nat
  nRegIdle : Nat
  -- SPI register frame widths (R95, decision D30; U18 of spec/93_implementation_defined.md)
  spiRegAddrBits : Nat
  spiRegValueBits : Nat
  -- `ERRCODE_TABLE`, the message of each 3-bit error code (R35)
  errcodeTable : Vector String 8
  -- indicator patterns, enumeration bound, variants, part table
  indBusy : Nat
  indIdle : Nat
  maxDevices : Nat
  restartMode : RestartMode
  spiVariant : SpiVariant
  partTable : List PartRow
  deriving DecidableEq, Repr, Inhabited

namespace Config

/-- `P_IR_LEN` (R8, source §4.2). -/
def irLen : Nat := 8
/-- `P_IDCODE_BITS` (R8, source §3). -/
def idcodeBits : Nat := 32
/-- `P_STATUS_BITS` (R8, source §3). -/
def statusBits : Nat := 32
/-- `P_PAGE_SIZE` (R8, source §3 and §8). -/
def pageSize : Nat := 256
/-- `P_FLASH_BYTES` (R8, R56): `2 ^ 24`, from the 3-byte address. -/
def flashBytes : Nat := 2 ^ 24
/-- `P_ECHO_BYTES` (R8, source §4.4). -/
def echoBytes : Nat := 4
/-- `P_PROBE_LEN` (R8, decision D14). -/
def probeLen : Nat := 256

/-! OPEN parameters: R8 gives them no default (log 10). -/

/-- `T_CTRL_TIMEOUT`, OPEN. -/
opaque tCtrlTimeout : Nat
/-- `T_LONG_TIMEOUT`, OPEN. -/
opaque tLongTimeout : Nat
/-- `T_POLL_SLEEP` less one time unit, OPEN: the sleep is positive, the premise U11 of
spec/93_implementation_defined.md asks of a model (log 12). -/
opaque tPollSleepLessOne : Nat
/-- `T_SETTLE`, OPEN. -/
opaque tSettle : Nat
/-- `N_CMD_IDLE`, OPEN. -/
opaque nCmdIdle : Nat
/-- `N_CFG_IDLE`, OPEN. -/
opaque nCfgIdle : Nat
/-- `N_RECONF_IDLE`, OPEN. -/
opaque nReconfIdle : Nat
/-- `N_REG_IDLE`, OPEN. -/
opaque nRegIdle : Nat
/-- `IND_BUSY`, OPEN. -/
opaque indBusy : Nat
/-- `IND_IDLE`, OPEN. -/
opaque indIdle : Nat
/-- `P_MAX_DEVICES` less one, OPEN: R8 says "at least 1". -/
opaque maxDevicesLessOne : Nat
/-- `P_RESTART_MODE`, OPEN. -/
opaque restartMode : RestartMode
/-- `P_SPI_VARIANT`, OPEN. -/
opaque spiVariant : SpiVariant
/-- `OPC_SPI_DEBUG`, OPEN. -/
opaque opcSpiDebug : Byte
/-- `PART_TABLE`, OPEN (D39): it may be empty. -/
opaque partTable : List PartRow

/-! Free answers of the oracles, past what the state holds of them (log 7, 8, 9). -/

/-- The link's answer to exchange `n`, where the state holds none: free (R6, R52, R262). -/
opaque freeLinkAnswer : Nat → LinkAnswer
/-- The direct SPI answer to exchange `n`, where the state holds none: free (R248). -/
opaque freeSpiAnswer : Nat → SpiAnswer
/-- How far the clock moves before read `n`, where the state holds nothing: free (R46). -/
opaque freeClockAdvance : Nat → Nat

/-- What a response field of so many bits shows for a value that does not fit it: free. No rule says
what the field holds then, and R135 of spec/40_bitvector_datapath.md reduces nothing (log 20). -/
opaque freeField (width : Nat) (value : Nat) : BitVec width

/-- The default filling of `ERRCODE_TABLE` (R35, G8): PRESUMED (log 11). -/
def errcodeTable : Vector String 8 :=
  #v["no error", "ID error", "illegal command", "CRC error", "preamble error",
    "configuration aborted by the user", "data overflow", "bitstream exceeds the SRAM array size"]

/-- The engine's own parameters: the general-knowledge defaults of R8 (PRESUMED, log 11;
`OPC_PRECONF` is the source's) and the OPEN constants above. -/
def params : Params where
  opcPreconf := 0x1C#8
  opcReadId := 0xE0#8
  opcLscReadStatus := 0x3C#8
  opcIscEnable := 0xC6#8
  opcIscDisable := 0x26#8
  opcIscErase := 0x0E#8
  opcLscRefresh := 0x79#8
  opcLscInitAddress := 0x46#8
  opcLscBitstreamBurst := 0x7A#8
  opcLscEnterBackgroundSpi := 0x3A#8
  opcVerifyId := 0xE2#8
  opcMetaIr := 0x32#8
  opcMetaDr := 0x38#8
  opcSpiDebug := opcSpiDebug
  opdPreconf := ⟨510, 2 ^ 510 - 1⟩
  opdIscEnable := ⟨8, 0x00⟩
  opdIscErase := ⟨8, 0x01⟩
  opdInitAddress := ⟨8, 0x01⟩
  opdBgspiUnlock := ⟨16, 0x68FE⟩
  stDone := 8
  stIscEnable := 9
  stWritable := 10
  stReadable := 11
  stBusy := 12
  stFail := 13
  stSpiFail := 22
  stErrcodeLo := 23
  stIdError := 27
  stInvalidCommand := 28
  flJedecId := 0x9F#8
  flWriteEnable := 0x06#8
  flChipErase := 0xC7#8
  flWritePage := 0x02#8
  flReadPage := 0x03#8
  flReadStatus := 0x05#8
  flWriteStatus := 0x01#8
  flReadUid := 0x4B#8
  flStBusy := 0
  flStWel := 1
  tCtrlTimeout := tCtrlTimeout
  tLongTimeout := tLongTimeout
  tPollSleep := tPollSleepLessOne + 1
  tSettle := tSettle
  nCmdIdle := nCmdIdle
  nCfgIdle := nCfgIdle
  nReconfIdle := nReconfIdle
  nRegIdle := nRegIdle
  spiRegAddrBits := 8
  spiRegValueBits := 32
  errcodeTable := errcodeTable
  indBusy := indBusy
  indIdle := indIdle
  maxDevices := maxDevicesLessOne + 1
  restartMode := restartMode
  spiVariant := spiVariant
  partTable := partTable

end Config
end Sys2Proof
end

