-- ==== Sys2Proof/Syntax.lean ====
section
/-! DEFINITION. The commands of the engine: one constructor per row of spec/opcode_table.json, in
the table's three encodings (spec/30_encoding.md R80, R86, R94). -/

namespace Sys2Proof

/-- The operand fields of a host frame (R80, R83): the flag bits, the two scalars and the payload.
What they mean to an operation, and when they are refused, is Machine/Operands.lean. -/
structure HostFields where
  flags : Byte
  a : Word32
  b : Word32
  payload : List Byte
  deriving DecidableEq, Repr, Inhabited

/-- The three encodings of spec/30_encoding.md, each a decode space of its own: the host frame
(R80), the JTAG instruction with its data shift (R86), and the SPI flash transaction (R94). -/
inductive Space where
  | host
  | jtag
  | flash
  deriving DecidableEq, Repr, Inhabited

/-- A frame waiting on the command port: its bytes, and the encoding they are in. The host port
itself carries host frames only; the other two spaces are the sequencer's own issue (log 3). -/
structure CommandFrame where
  space : Space
  bytes : List Byte
  deriving DecidableEq, Repr, Inhabited

/-- The commands. The 27 host operations carry their frame's fields. A JTAG instruction or flash
command carries what follows its 8 bits where the engine does not fix it: the bytes of the data
shift, the flash address, the page data, the count of bytes to read. -/
inductive Instr where
  -- TAPC, spec/41_tap_controller.md
  | acquire (f : HostFields)
  | release (f : HostFields)
  | tapReset (f : HostFields)
  | moveToState (f : HostFields)
  | shiftInstruction (f : HostFields)
  | shiftData (f : HostFields)
  | runTest (f : HostFields)
  | enumerate (f : HostFields)
  | forceBitbang (f : HostFields)
  | playPattern (f : HostFields)
  | setIndicator (f : HostFields)
  -- RAF, spec/42_register_framer.md
  | detectWidths (f : HostFields)
  | regTransaction (f : HostFields)
  | regRead (f : HostFields)
  | regWrite (f : HostFields)
  -- CFGSEQ, spec/43_ecp5_sequencer.md
  | configure (f : HostFields)
  | unconfigure (f : HostFields)
  | triggerReconfiguration (f : HostFields)
  -- SPIB, flash half, spec/44_spi_bridge_flash.md
  | readFlashId (f : HostFields)
  | readFlashUid (f : HostFields)
  | eraseFlash (f : HostFields)
  | flash (f : HostFields)
  | readFlash (f : HostFields)
  -- SPIB, debug half, spec/45_spi_debug.md
  | spiTransfer (f : HostFields)
  | spiRegTransaction (f : HostFields)
  | spiRegRead (f : HostFields)
  | spiRegWrite (f : HostFields)
  -- JTAG instructions, spec/30_encoding.md R86
  | opcReadId
  | opcLscReadStatus
  | opcIscEnable
  | opcIscDisable
  | opcIscErase
  | opcLscRefresh
  | opcPreconf
  | opcLscInitAddress
  | opcLscBitstreamBurst (bitstream : List Byte)
  | opcLscEnterBackgroundSpi
  | opcVerifyId
  | opcMetaIr (word : List Byte)
  | opcMetaDr (word : List Byte)
  | opcSpiDebug (data : List Byte)
  -- SPI flash commands, spec/30_encoding.md R94
  | flJedecId
  | flWriteEnable
  | flChipErase
  | flWritePage (addr : BitVec 24) (data : List Byte)
  | flReadPage (addr : BitVec 24) (count : Nat)
  | flReadStatus
  | flWriteStatus
  | flReadUid
  deriving DecidableEq, Repr

end Sys2Proof
end

