-- ==== Sys2Proof/Machine/State.lean ====
section
/-! DEFINITION. The engine's state, spec/10_state.md R20 to R33 and R38, as plain data; the error
records and events that it holds; how a step can stop. -/

namespace Sys2Proof.Machine

/-- R22, R84: the 16 states of the TAP graph, in the order of their codes. -/
inductive TapState where
  | reset
  | idle
  | selectDr
  | captureDr
  | shiftDr
  | exit1Dr
  | drPause
  | exit2Dr
  | updateDr
  | selectIr
  | captureIr
  | shiftIr
  | exit1Ir
  | irPause
  | exit2Ir
  | updateIr
  deriving DecidableEq, Repr, Inhabited

/-- R189: one entry of the ordered list of status violations. -/
inductive Violation where
  | fail
  | idError
  | invalidCommand
  | errCode (c : BitVec 3)
  | doneNotSet
  | iscNotSet
  deriving DecidableEq, Repr, Inhabited

/-- R261: the details of a `TransportError`. -/
inductive TransportDetail where
  | linkIo
  | linkTimeout
  | malformed
  deriving DecidableEq, Repr, Inhabited

/-- R261: the details of a `ConfigurationMismatch`. -/
inductive MismatchDetail where
  | badWidth
  | noDevice
  deriving DecidableEq, Repr, Inhabited

/-- R264: the details of a `Refused`. -/
inductive RefusedDetail where
  | unknownOp
  | badOperand
  | badLength
  | badState
  | notOwner
  | busy
  | outOfScope
  | badAddress
  | badValue
  | misaligned
  | badFrame
  deriving DecidableEq, Repr, Inhabited

/-- R260, R261: what an operation can raise, with its `info`. -/
inductive Raise where
  | transportError (detail : TransportDetail)
  | protocolViolation (first : Violation) (errcode : BitVec 3) (status : Word32)
  | timeout (awaited : Byte)
  | configurationMismatch (detail : MismatchDetail)
  | notSupported
  | refused (detail : RefusedDetail)
  deriving DecidableEq, Repr, Inhabited

/-- R260: the error kinds. -/
inductive ErrorKind where
  | transportError
  | protocolViolation
  | timeout
  | configurationMismatch
  | notSupported
  | refused
  deriving DecidableEq, Repr, Inhabited

/-- R267: the error record. -/
structure ErrorRecord where
  kind : ErrorKind
  detail : BitVec 5
  op : Option Byte
  phase : Nat
  opcode : Byte
  errcode : BitVec 3
  status : Word32
  deriving DecidableEq, Repr, Inhabited

/-- R268: the warnings. -/
inductive Warning where
  | statusViolation (v : Violation) (status : Word32)
  | spiFail (status : Word32)
  | teardownFailed (e : Raise)
  deriving DecidableEq, Repr, Inhabited

/-- R18 (b): the primitive steps that the trace records. -/
inductive Event where
  | tick (tms tdi tdo bitbang : Bool)
  | delay (t : Nat)
  | clockRead (t : Nat)
  | indicator (pattern : Nat)
  | programPulse
  | spiDirect (csInverted : Bool) (sent received : List Byte)
  | warn (w : Warning)
  deriving DecidableEq, Repr, Inhabited

/-- R37: one device of an enumeration, a value in a response and never state. -/
structure JtagDevice where
  idcode : Word32
  part : Option (String × String)
  deriving DecidableEq, Repr, Inhabited

/-- The engine's state. The first group is R20's table, one field per element; the second group
is the model's own: the observed trace (R18) and the inputs of the two oracles. -/
structure State where
  /-- `host.cmd`, R21: the frame presented to the engine, none when there is none. -/
  hostCmd : Option CommandFrame
  /-- `host.resp`, R21: the last response frame, empty when there was none. -/
  hostResp : List Byte
  /-- `tap.state`, R22. -/
  tapState : TapState
  /-- `tap.owner`, R23. -/
  tapOwner : Bool
  /-- `tap.bitbang`, R24. -/
  tapBitbang : Bool
  /-- `sh.out`, R25. -/
  shOut : BitVector
  /-- `sh.in`, R25. -/
  shIn : BitVector
  /-- `raf.valid`, R26. -/
  rafValid : Bool
  /-- `raf.iw`, R26: it holds no value that a rule reads while `rafValid` is false. -/
  rafIw : Nat
  /-- `raf.dw`, R26: likewise. -/
  rafDw : Nat
  /-- `cfg.active`, R28. -/
  cfgActive : Bool
  /-- `cfg.part_id`, R28. -/
  cfgPartId : Option Word32
  /-- `cfg.isc`, R28. -/
  cfgIsc : Bool
  /-- `cfg.bgspi`, R28. -/
  cfgBgspi : Bool
  /-- `ind.pattern`, R29. -/
  indPattern : Nat
  /-- `seq.op`, R30. -/
  seqOp : Option Byte
  /-- `seq.phase`, R30. -/
  seqPhase : Nat
  /-- `seq.opcode`, R30: 0 when none was issued. -/
  seqOpcode : Byte
  /-- `err.last`, R31. -/
  errLast : Option ErrorRecord
  /-- `ghost.ir`, R32. -/
  ghostIr : Option BitVector
  /-- `ghost.dr_defined`, R32. -/
  ghostDrDefined : Bool
  /-- MODEL: the event trace of R18 (b), newest event first (log 15). -/
  trace : List Event
  /-- MODEL: the link's answers still to come, one per tick; past them an answer is free (log 7). -/
  link : List LinkAnswer
  /-- MODEL: link exchanges made, the index of the next free answer (log 7). -/
  linkCount : Nat
  /-- MODEL: the direct SPI answers still to come; past them an answer is free (log 9). -/
  spi : List SpiAnswer
  /-- MODEL: direct SPI exchanges made (log 9). -/
  spiCount : Nat
  /-- MODEL: the least time the clock can show at its next read (R46, log 8). -/
  time : Nat
  /-- MODEL: how far the clock moves before each coming read; past them it is free (log 8). -/
  clock : List Nat
  /-- MODEL: clock reads made (log 8). -/
  clockCount : Nat
  /-- MODEL: the reset input (R290): how many primitive steps the engine makes before each coming
  assertion of reset, the next one first; past them reset is not asserted (log 26). -/
  resets : List Nat
  deriving DecidableEq, Repr

/-- R38, R290: every element at its reset value. `raf.iw` and `raf.dw` are unspecified there and
0 here (DESIGN CHOICE, log 13); the model's own fields are empty. -/
def State.reset : State where
  hostCmd := none
  hostResp := []
  tapState := .reset
  tapOwner := false
  tapBitbang := false
  shOut := ⟨0, 0⟩
  shIn := ⟨0, 0⟩
  rafValid := false
  rafIw := 0
  rafDw := 0
  cfgActive := false
  cfgPartId := none
  cfgIsc := false
  cfgBgspi := false
  indPattern := Config.params.indIdle
  seqOp := none
  seqPhase := 0
  seqOpcode := 0#8
  errLast := none
  ghostIr := none
  ghostDrDefined := false
  trace := []
  link := []
  linkCount := 0
  spi := []
  spiCount := 0
  time := 0
  clock := []
  clockCount := 0
  resets := []

/-- How the machine can stop. -/
inductive Fault where
  /-- A poll loop that never ends: U11 of spec/93_implementation_defined.md calls it stuck, and
  only `T_POLL_SLEEP = 0` makes it possible. Raised by the poll loop of Machine/Ops.lean when its
  bound is spent; safe, and no command of the engine reaches it, because the engine's
  `T_POLL_SLEEP` is positive (log 12). -/
  | pollStuck
  deriving DecidableEq, Repr

/-- Why there is no meaning to run. -/
inductive Refusal where
  /-- A constructor of `Instr` that has no meaning yet. Raised by no arm; safe. -/
  | notModelled (mnemonic : String)
  /-- A frame of a wire space that is no row of the table, raised by `step`; no host frame reaches
  it (an illegal host frame is answered, R96), so it is safe (log 3). -/
  | badWireFrame (bytes : List Byte)
  deriving DecidableEq, Repr

end Sys2Proof.Machine
end

