-- ==== Sys2Proof/Machine/Flags.lean ====
section
/-! DEFINITION. Every flag the engine decodes or computes: the ECP5 status word
(spec/10_state.md R34), its violations (spec/43_ecp5_sequencer.md R189), the flash status byte
(R36), and the codes of an error record (spec/60_exceptions.md R260, R264, R267). -/

namespace Sys2Proof.Machine

/-- R34: the decoded fields of a status word. -/
structure StatusFlags where
  done : Bool
  iscEnable : Bool
  writable : Bool
  readable : Bool
  busy : Bool
  fail : Bool
  spiFail : Bool
  errcode : BitVec 3
  idError : Bool
  invalidCommand : Bool
  deriving DecidableEq, Repr, Inhabited

/-- R34: `decode_status(s)`. -/
def decodeStatus (P : Params) (s : Word32) : StatusFlags where
  done := s.getLsbD P.stDone
  iscEnable := s.getLsbD P.stIscEnable
  writable := s.getLsbD P.stWritable
  readable := s.getLsbD P.stReadable
  busy := s.getLsbD P.stBusy
  fail := s.getLsbD P.stFail
  spiFail := s.getLsbD P.stSpiFail
  errcode := s.extractLsb' P.stErrcodeLo 3
  idError := s.getLsbD P.stIdError
  invalidCommand := s.getLsbD P.stInvalidCommand

/-- R189: `violations(f, require_done, require_isc)`, in report order. -/
def violations (f : StatusFlags) (requireDone requireIsc : Bool) : List Violation :=
  (if f.fail then [.fail] else [])
  ++ (if f.idError then [.idError] else [])
  ++ (if f.invalidCommand then [.invalidCommand] else [])
  ++ (if f.errcode ≠ 0 then [.errCode f.errcode] else [])
  ++ (if requireDone && !f.done then [.doneNotSet] else [])
  ++ (if requireIsc && !f.iscEnable then [.iscNotSet] else [])

/-- R36: the flash's busy bit. -/
def flashBusy (P : Params) (status : Byte) : Bool := status.getLsbD P.flStBusy

/-- R36: the flash's write-enabled bit. -/
def flashWel (P : Params) (status : Byte) : Bool := status.getLsbD P.flStWel

/-- R260, R100: the code of an error kind. -/
def kindCode (k : ErrorKind) : Byte :=
  match k with
  | .transportError => 1
  | .protocolViolation => 2
  | .timeout => 3
  | .configurationMismatch => 4
  | .notSupported => 5
  | .refused => 6

/-- R264: the detail codes of `Refused`. -/
def refusedCode (d : RefusedDetail) : BitVec 5 :=
  match d with
  | .unknownOp => 1
  | .badOperand => 2
  | .badLength => 3
  | .badState => 4
  | .notOwner => 5
  | .busy => 6
  | .outOfScope => 7
  | .badAddress => 8
  | .badValue => 9
  | .misaligned => 10
  | .badFrame => 11

/-- R267: the detail codes of `ProtocolViolation`. -/
def violationCode (v : Violation) : BitVec 5 :=
  match v with
  | .fail => 1
  | .idError => 2
  | .invalidCommand => 3
  | .errCode _ => 4
  | .doneNotSet => 5
  | .iscNotSet => 6

/-- R267: the detail codes of `ConfigurationMismatch`. -/
def mismatchCode (d : MismatchDetail) : BitVec 5 :=
  match d with
  | .badWidth => 1
  | .noDevice => 2

/-- R267: the detail codes of `TransportError`. -/
def transportCode (d : TransportDetail) : BitVec 5 :=
  match d with
  | .linkIo => 1
  | .linkTimeout => 2
  | .malformed => 3

/-- R260: the kind of what was raised. -/
def raiseKind (r : Raise) : ErrorKind :=
  match r with
  | .transportError _ => .transportError
  | .protocolViolation _ _ _ => .protocolViolation
  | .timeout _ => .timeout
  | .configurationMismatch _ => .configurationMismatch
  | .notSupported => .notSupported
  | .refused _ => .refused

/-- R267: the detail field. -/
def raiseDetail (r : Raise) : BitVec 5 :=
  match r with
  | .transportError d => transportCode d
  | .protocolViolation v _ _ => violationCode v
  | .timeout _ => 0
  | .configurationMismatch d => mismatchCode d
  | .notSupported => 0
  | .refused d => refusedCode d

/-- R267: the opcode field, the awaited command for a `Timeout`, otherwise `seq.opcode`. -/
def raiseOpcode (r : Raise) (seqOpcode : Byte) : Byte :=
  match r with
  | .timeout awaited => awaited
  | _ => seqOpcode

/-- R267: the errcode field, 0 but for a `ProtocolViolation`. -/
def raiseErrcode (r : Raise) : BitVec 3 :=
  match r with
  | .protocolViolation _ errcode _ => errcode
  | _ => 0

/-- R267: the status field, 0 but for a `ProtocolViolation`. -/
def raiseStatus (r : Raise) : Word32 :=
  match r with
  | .protocolViolation _ _ status => status
  | _ => 0

/-- R35: the message of a 3-bit error code, which the text of an error record prints. Nothing else
depends on the table. -/
def errcodeMessage (P : Params) (errcode : BitVec 3) : String :=
  P.errcodeTable.get ⟨errcode.toNat, errcode.isLt⟩

end Sys2Proof.Machine
end

