-- ==== Sys2Proof/Decode.lean ====
section
/-! DEFINITION. Decoding and encoding of the three encodings of spec/30_encoding.md, with the
byte-order helpers of spec/00_scope.md R11 that they use. Decoding is total on any bytes and
rejects by name; every encoder is written from the same layouts. -/

namespace Sys2Proof

/-! ### Byte order -/

/-- R11: `be_k(x)`, the `k`-byte big-endian string of `x`; byte 0 is the most significant. -/
def beBytes : Nat → Nat → List Byte
  | 0, _ => []
  | k + 1, x => BitVec.ofNat 8 (x / 256 ^ k) :: beBytes k x

/-- R11: the inverse of `be_k`, for a byte string of any length. -/
def fromBe (b : List Byte) : Nat :=
  b.foldl (fun acc byte => acc * 256 + byte.toNat) 0

/-- The four bytes of a 32-bit field, most significant first (R80: all multi-byte fields are
big-endian). -/
def be4 (x : Word32) : List Byte :=
  [x.extractLsb' 24 8, x.extractLsb' 16 8, x.extractLsb' 8 8, x.extractLsb' 0 8]

/-- The 32-bit field of four bytes, most significant first. -/
def ofBe4 (b3 b2 b1 b0 : Byte) : Word32 := b3 ++ b2 ++ b1 ++ b0

/-- The three bytes of a flash address, most significant first (R94: `be_3(addr)`). -/
def be3 (x : BitVec 24) : List Byte :=
  [x.extractLsb' 16 8, x.extractLsb' 8 8, x.extractLsb' 0 8]

/-- The flash address of three bytes, most significant first. -/
def ofBe3 (b2 b1 b0 : Byte) : BitVec 24 := b2 ++ b1 ++ b0

/-! ### Operation codes of the host frame (R82) -/

def opAcquire : Byte := 0x01#8
def opRelease : Byte := 0x02#8
def opTapReset : Byte := 0x03#8
def opMoveToState : Byte := 0x04#8
def opShiftInstruction : Byte := 0x05#8
def opShiftData : Byte := 0x06#8
def opRunTest : Byte := 0x07#8
def opEnumerate : Byte := 0x08#8
def opForceBitbang : Byte := 0x09#8
def opPlayPattern : Byte := 0x0A#8
def opSetIndicator : Byte := 0x0B#8
def opDetectWidths : Byte := 0x10#8
def opRegTransaction : Byte := 0x11#8
def opRegRead : Byte := 0x12#8
def opRegWrite : Byte := 0x13#8
def opConfigure : Byte := 0x20#8
def opUnconfigure : Byte := 0x21#8
def opTriggerReconfiguration : Byte := 0x22#8
def opReadFlashId : Byte := 0x30#8
def opReadFlashUid : Byte := 0x31#8
def opEraseFlash : Byte := 0x32#8
def opFlash : Byte := 0x33#8
def opReadFlash : Byte := 0x34#8
def opSpiTransfer : Byte := 0x40#8
def opSpiRegTransaction : Byte := 0x41#8
def opSpiRegRead : Byte := 0x42#8
def opSpiRegWrite : Byte := 0x43#8

/-! ### Decoding -/

/-- Why bytes are no command. The first two are the host's refusals of R96 (`BadFrame`, with the
frame's byte 0 if it has one, and `UnknownOp`); the others are for the wire spaces, which no host
frame reaches. -/
inductive DecodeError where
  | badFrame (op : Option Byte)
  | unknownOp (op : Byte)
  | unknownWireOpcode (opcode : Byte)
  | badWireFrame
  deriving DecidableEq, Repr, Inhabited

/-- R82: the operation an `op` byte names, still to be given its operand fields. -/
def hostOperation (op : Byte) : Option (HostFields → Instr) :=
  match op.toNat with
  | 0x01 => some .acquire
  | 0x02 => some .release
  | 0x03 => some .tapReset
  | 0x04 => some .moveToState
  | 0x05 => some .shiftInstruction
  | 0x06 => some .shiftData
  | 0x07 => some .runTest
  | 0x08 => some .enumerate
  | 0x09 => some .forceBitbang
  | 0x0A => some .playPattern
  | 0x0B => some .setIndicator
  | 0x10 => some .detectWidths
  | 0x11 => some .regTransaction
  | 0x12 => some .regRead
  | 0x13 => some .regWrite
  | 0x20 => some .configure
  | 0x21 => some .unconfigure
  | 0x22 => some .triggerReconfiguration
  | 0x30 => some .readFlashId
  | 0x31 => some .readFlashUid
  | 0x32 => some .eraseFlash
  | 0x33 => some .flash
  | 0x34 => some .readFlash
  | 0x40 => some .spiTransfer
  | 0x41 => some .spiRegTransaction
  | 0x42 => some .spiRegRead
  | 0x43 => some .spiRegWrite
  | _ => none

/-- R80: the header `op flags a(4) b(4) plen(4)`, then `plen` payload bytes and nothing more.
A shorter frame or another length is `BadFrame`, tested before the operation code (R269). -/
def decodeHost (bytes : List Byte) : Except DecodeError Instr :=
  match bytes with
  | op :: flags :: a3 :: a2 :: a1 :: a0 :: b3 :: b2 :: b1 :: b0 :: p3 :: p2 :: p1 :: p0 :: payload =>
    if payload.length = (ofBe4 p3 p2 p1 p0).toNat then
      match hostOperation op with
      | some command => .ok (command ⟨flags, ofBe4 a3 a2 a1 a0, ofBe4 b3 b2 b1 b0, payload⟩)
      | none => .error (.unknownOp op)
    else .error (.badFrame (some op))
  | op :: _ => .error (.badFrame (some op))
  | [] => .error (.badFrame none)

/-- A JTAG instruction whose data shift the engine fixes takes no bytes after its opcode. -/
def fixedOperand (i : Instr) (data : List Byte) : Except DecodeError Instr :=
  if data = [] then .ok i else .error .badWireFrame

/-- A JTAG instruction with a data shift of the sequencer's choice takes at least one byte. -/
def dataOperand (command : List Byte → Instr) (data : List Byte) : Except DecodeError Instr :=
  if data = [] then .error .badWireFrame else .ok (command data)

/-- R86: the instruction an 8-bit JTAG opcode names. `OPC_SPI_DEBUG`, whose value is OPEN, is
tried last: where it equals another opcode (the test vectors' 0x32 is `OPC_META_IR` too) the
other one is read (log 6). -/
def decodeJtag (P : Params) (bytes : List Byte) : Except DecodeError Instr :=
  match bytes with
  | [] => .error .badWireFrame
  | opcode :: data =>
    if opcode = P.opcReadId then fixedOperand .opcReadId data
    else if opcode = P.opcLscReadStatus then fixedOperand .opcLscReadStatus data
    else if opcode = P.opcIscEnable then fixedOperand .opcIscEnable data
    else if opcode = P.opcIscDisable then fixedOperand .opcIscDisable data
    else if opcode = P.opcIscErase then fixedOperand .opcIscErase data
    else if opcode = P.opcLscRefresh then fixedOperand .opcLscRefresh data
    else if opcode = P.opcPreconf then fixedOperand .opcPreconf data
    else if opcode = P.opcLscInitAddress then fixedOperand .opcLscInitAddress data
    else if opcode = P.opcLscBitstreamBurst then dataOperand .opcLscBitstreamBurst data
    else if opcode = P.opcLscEnterBackgroundSpi then fixedOperand .opcLscEnterBackgroundSpi data
    else if opcode = P.opcVerifyId then fixedOperand .opcVerifyId data
    else if opcode = P.opcMetaIr then dataOperand .opcMetaIr data
    else if opcode = P.opcMetaDr then dataOperand .opcMetaDr data
    else if opcode = P.opcSpiDebug then dataOperand .opcSpiDebug data
    else .error (.unknownWireOpcode opcode)

/-- R94: the dummy bytes `xx` of a fixed flash frame are sent as 0x00. -/
def fixedFlashFrame (i : Instr) (dummies : Nat) (rest : List Byte) : Except DecodeError Instr :=
  if rest = List.replicate dummies 0x00#8 then .ok i else .error .badWireFrame

/-- R94: a write-page frame's bytes after its command byte. -/
def decodeWritePage (rest : List Byte) : Except DecodeError Instr :=
  match rest with
  | a2 :: a1 :: a0 :: data =>
    if 1 ≤ data.length ∧ data.length ≤ Config.pageSize then .ok (.flWritePage (ofBe3 a2 a1 a0) data)
    else .error .badWireFrame
  | _ => .error .badWireFrame

/-- R94: a read-page frame's bytes after its command byte: the address, then `m` dummy bytes. -/
def decodeReadPage (rest : List Byte) : Except DecodeError Instr :=
  match rest with
  | a2 :: a1 :: a0 :: dummies =>
    if 1 ≤ dummies.length ∧ dummies.length ≤ Config.pageSize
        ∧ dummies = List.replicate dummies.length 0x00#8 then
      .ok (.flReadPage (ofBe3 a2 a1 a0) dummies.length)
    else .error .badWireFrame
  | _ => .error .badWireFrame

/-- R94: the flash command that the bytes of one SPI transaction are. -/
def decodeFlash (P : Params) (bytes : List Byte) : Except DecodeError Instr :=
  match bytes with
  | [] => .error .badWireFrame
  | command :: rest =>
    if command = P.flJedecId then fixedFlashFrame .flJedecId 3 rest
    else if command = P.flWriteEnable then fixedFlashFrame .flWriteEnable 0 rest
    else if command = P.flChipErase then fixedFlashFrame .flChipErase 0 rest
    else if command = P.flWritePage then decodeWritePage rest
    else if command = P.flReadPage then decodeReadPage rest
    else if command = P.flReadStatus then fixedFlashFrame .flReadStatus 1 rest
    else if command = P.flWriteStatus then fixedFlashFrame .flWriteStatus 1 rest
    else if command = P.flReadUid then fixedFlashFrame .flReadUid 12 rest
    else .error (.unknownWireOpcode command)

/-- The decoder: a frame, in the encoding of its space. -/
def decode (P : Params) (frame : CommandFrame) : Except DecodeError Instr :=
  match frame.space with
  | .host => decodeHost frame.bytes
  | .jtag => decodeJtag P frame.bytes
  | .flash => decodeFlash P frame.bytes

/-! ### Encoding -/

/-- R80: a host frame from its operation code and its fields. -/
def encodeHost (op : Byte) (f : HostFields) : CommandFrame :=
  ⟨.host, op :: f.flags :: be4 f.a ++ be4 f.b ++ be4 (BitVec.ofNat 32 f.payload.length) ++ f.payload⟩

/-- R86: a JTAG frame: the opcode, then the bytes of the data shift where it is not fixed. -/
def encodeJtag (opcode : Byte) (data : List Byte) : CommandFrame := ⟨.jtag, opcode :: data⟩

/-- R94: a flash frame. -/
def encodeFlash (command : Byte) (rest : List Byte) : CommandFrame := ⟨.flash, command :: rest⟩

/-- The words of a command, from the same tables. -/
def encode (P : Params) : Instr → CommandFrame
  | .acquire f => encodeHost opAcquire f
  | .release f => encodeHost opRelease f
  | .tapReset f => encodeHost opTapReset f
  | .moveToState f => encodeHost opMoveToState f
  | .shiftInstruction f => encodeHost opShiftInstruction f
  | .shiftData f => encodeHost opShiftData f
  | .runTest f => encodeHost opRunTest f
  | .enumerate f => encodeHost opEnumerate f
  | .forceBitbang f => encodeHost opForceBitbang f
  | .playPattern f => encodeHost opPlayPattern f
  | .setIndicator f => encodeHost opSetIndicator f
  | .detectWidths f => encodeHost opDetectWidths f
  | .regTransaction f => encodeHost opRegTransaction f
  | .regRead f => encodeHost opRegRead f
  | .regWrite f => encodeHost opRegWrite f
  | .configure f => encodeHost opConfigure f
  | .unconfigure f => encodeHost opUnconfigure f
  | .triggerReconfiguration f => encodeHost opTriggerReconfiguration f
  | .readFlashId f => encodeHost opReadFlashId f
  | .readFlashUid f => encodeHost opReadFlashUid f
  | .eraseFlash f => encodeHost opEraseFlash f
  | .flash f => encodeHost opFlash f
  | .readFlash f => encodeHost opReadFlash f
  | .spiTransfer f => encodeHost opSpiTransfer f
  | .spiRegTransaction f => encodeHost opSpiRegTransaction f
  | .spiRegRead f => encodeHost opSpiRegRead f
  | .spiRegWrite f => encodeHost opSpiRegWrite f
  | .opcReadId => encodeJtag P.opcReadId []
  | .opcLscReadStatus => encodeJtag P.opcLscReadStatus []
  | .opcIscEnable => encodeJtag P.opcIscEnable []
  | .opcIscDisable => encodeJtag P.opcIscDisable []
  | .opcIscErase => encodeJtag P.opcIscErase []
  | .opcLscRefresh => encodeJtag P.opcLscRefresh []
  | .opcPreconf => encodeJtag P.opcPreconf []
  | .opcLscInitAddress => encodeJtag P.opcLscInitAddress []
  | .opcLscBitstreamBurst bitstream => encodeJtag P.opcLscBitstreamBurst bitstream
  | .opcLscEnterBackgroundSpi => encodeJtag P.opcLscEnterBackgroundSpi []
  | .opcVerifyId => encodeJtag P.opcVerifyId []
  | .opcMetaIr word => encodeJtag P.opcMetaIr word
  | .opcMetaDr word => encodeJtag P.opcMetaDr word
  | .opcSpiDebug data => encodeJtag P.opcSpiDebug data
  | .flJedecId => encodeFlash P.flJedecId [0x00#8, 0x00#8, 0x00#8]
  | .flWriteEnable => encodeFlash P.flWriteEnable []
  | .flChipErase => encodeFlash P.flChipErase []
  | .flWritePage addr data => encodeFlash P.flWritePage (be3 addr ++ data)
  | .flReadPage addr count => encodeFlash P.flReadPage (be3 addr ++ List.replicate count 0x00#8)
  | .flReadStatus => encodeFlash P.flReadStatus [0x00#8]
  | .flWriteStatus => encodeFlash P.flWriteStatus [0x00#8]
  | .flReadUid => encodeFlash P.flReadUid (List.replicate 12 0x00#8)

/-! ### The table's words -/

/-- The bytes of a table word, first byte first: the table numbers bit 0 as the least significant
bit of the first byte. -/
def wordBytes (nbits w : Nat) : List Byte :=
  (List.range (nbits / 8)).map (fun k => BitVec.ofNat 8 (w / 256 ^ k))

/-- Bytes followed by zeros up to a least length. -/
def zeroPadded (bytes : List Byte) (len : Nat) : List Byte :=
  bytes ++ List.replicate (len - bytes.length) 0x00#8

/-- The shortest legal length of a flash frame, by its command byte (R94). -/
def flashFrameLength (P : Params) (command : Byte) : Nat :=
  if command = P.flJedecId then 4
  else if command = P.flReadUid then 13
  else if command = P.flWritePage ∨ command = P.flReadPage then 5
  else if command = P.flReadStatus ∨ command = P.flWriteStatus then 2
  else 1

/-- The flash command bytes that have a value in R8. -/
def flashCommandBytes (P : Params) : List Byte :=
  [P.flJedecId, P.flWriteEnable, P.flChipErase, P.flWritePage, P.flReadPage, P.flReadStatus,
    P.flWriteStatus, P.flReadUid]

/-- The JTAG opcodes whose row fixes the data shift, or has none. -/
def fixedJtagOpcodes (P : Params) : List Byte :=
  [P.opcReadId, P.opcLscReadStatus, P.opcIscEnable, P.opcIscDisable, P.opcIscErase,
    P.opcLscRefresh, P.opcPreconf, P.opcLscInitAddress, P.opcLscEnterBackgroundSpi, P.opcVerifyId]

/-- The JTAG opcodes with a value in R8 whose data shift is the sequencer's choice. -/
def dataJtagOpcodes (P : Params) : List Byte :=
  [P.opcLscBitstreamBurst, P.opcMetaIr, P.opcMetaDr]

/-- The frame a table word stands for. The table has three encodings on the same 8 bits and does
not say which a word is in; a byte that is a host operation code is read as one, then a flash
command byte, then a JTAG opcode (log 6). What lies above the table's bits is zero: a host header
of zeros, or the shortest wire frame of zeros. -/
def tableFrame (nbits w : Nat) : CommandFrame :=
  let bytes := wordBytes nbits w
  let first := bytes.headD 0x00#8
  if (hostOperation first).isSome then ⟨.host, zeroPadded bytes 14⟩
  else if first ∈ flashCommandBytes Config.params then
    ⟨.flash, zeroPadded bytes (flashFrameLength Config.params first)⟩
  else if first ∈ fixedJtagOpcodes Config.params then ⟨.jtag, bytes⟩
  else if first ∈ dataJtagOpcodes Config.params then ⟨.jtag, zeroPadded bytes 2⟩
  else ⟨.host, zeroPadded bytes 14⟩

/-- The command the decoder reads from a table word. -/
def decodeTableWord (nbits w : Nat) : Option Instr :=
  match decode Config.params (tableFrame nbits w) with
  | .ok i => some i
  | .error _ => none

end Sys2Proof
end

