-- ==== Sys2Proof/Machine/Datapath.lean ====
section
/-! DEFINITION. SHDP: the BitVector functions and the order mux of
spec/40_bitvector_datapath.md (R120 to R135). All are combinational: no state, no steps. -/

namespace Sys2Proof.Machine

/-! ### Bits -/

/-- R10: bit `i` of a BitVector. -/
def bitAt (v : BitVector) (i : Nat) : Bool := v.val.testBit i

/-- The bits of a BitVector in native shift order, bit 0 first (R131). -/
def bitsOf (v : BitVector) : List Bool := (List.range v.len).map (bitAt v)

/-- The value whose bit `i` is element `i` of the list. -/
def valueOfBits (bits : List Bool) : Nat :=
  bits.foldr (fun b acc => b.toNat + 2 * acc) 0

/-- The BitVector of bits in native order. -/
def ofBits (bits : List Bool) : BitVector := ⟨bits.length, valueOfBits bits⟩

/-- R10: `ones(n)`. -/
def ones (n : Nat) : BitVector := ⟨n, 2 ^ n - 1⟩

/-- R10: `zeros(n)`. -/
def zeros (n : Nat) : BitVector := ⟨n, 0⟩

/-- R10: the value fits the length. -/
def fits (v : BitVector) : Prop := v.val < 2 ^ v.len

/-! ### Construction and conversion -/

/-- The byte orders of R120. The engine's own rules use only `big` (decision D8). -/
inductive ByteOrder where
  | big
  | little
  deriving DecidableEq, Repr, Inhabited

/-- R120: `from_bytes(b, order)`. -/
def fromBytes (b : List Byte) (order : ByteOrder) : BitVector :=
  match order with
  | .big => ⟨8 * b.length, fromBe b⟩
  | .little => ⟨8 * b.length, fromBe b.reverse⟩

/-- R121: `to_bytes(v, order)`, for a length that is a multiple of 8. -/
def toBytes (v : BitVector) (order : ByteOrder) : List Byte :=
  match order with
  | .big => beBytes (v.len / 8) v.val
  | .little => (beBytes (v.len / 8) v.val).reverse

/-- R122: `from_int(x, n)`, for `x < 2 ^ n`. -/
def fromInt (x n : Nat) : BitVector := ⟨n, x⟩

/-- R122: `to_int(v)`. -/
def toInt (v : BitVector) : Nat := v.val

/-! ### Slicing and concatenation -/

/-- R124: `a ++ b`; `a` is the more significant part. -/
def append (a b : BitVector) : BitVector := ⟨a.len + b.len, a.val * 2 ^ b.len + b.val⟩

/-- R125: `v[hi:lo]`, for `lo ≤ hi < len(v)`. -/
def slice (v : BitVector) (hi lo : Nat) : BitVector :=
  ⟨hi - lo + 1, v.val / 2 ^ lo % 2 ^ (hi - lo + 1)⟩

/-! ### Reversals -/

/-- R126: bit order reversed within the whole vector. -/
def bitrevAll (v : BitVector) : BitVector := ofBits (bitsOf v).reverse

/-- R127: byte order reversed, each byte's bits kept; for a length that is a multiple of 8. -/
def byterev (v : BitVector) : BitVector := fromBytes (toBytes v .big).reverse .big

/-- The bits of one byte reversed. -/
def bitrevByte (b : Byte) : Byte := b.reverse

/-- R128: the bits inside each byte reversed, byte order kept; for a length that is a multiple of
8. -/
def bitrevBytes (v : BitVector) : BitVector := fromBytes ((toBytes v .big).map bitrevByte) .big

/-! ### Wire order and the mux -/

/-- R132: `to_wire(b) = bitrev_all(from_bytes(b))`. -/
def toWire (b : List Byte) : BitVector := bitrevAll (fromBytes b .big)

/-- R132: `from_wire(r) = to_bytes(bitrev_all(r))`, for a length that is a multiple of 8. -/
def fromWire (r : BitVector) : List Byte := toBytes (bitrevAll r) .big

/-- R133: the mux's select input. -/
inductive ShiftOrder where
  | native
  | wire
  deriving DecidableEq, Repr, Inhabited

/-- R85: the number of bytes a packed operand of `len` bits has. -/
def packedLength (len : Nat) : Nat := (len + 7) / 8

/-- R133, the outgoing half of the mux: what is shifted for a payload of `len` bits. Natively the
payload is packed by R85. -/
def muxOut (order : ShiftOrder) (len : Nat) (payload : List Byte) : BitVector :=
  match order with
  | .native => fromInt (fromBe payload) len
  | .wire => toWire payload

/-- R133, the incoming half: the bytes answered for the captured bits, packed by R85 natively. -/
def muxIn (order : ShiftOrder) (captured : BitVector) : List Byte :=
  match order with
  | .native => beBytes (packedLength captured.len) captured.val
  | .wire => fromWire captured

/-! ### Counting and arithmetic -/

/-- The position of the first false bit of a list, or none. -/
def firstZero : List Bool → Option Nat
  | [] => none
  | false :: _ => some 0
  | true :: bits => (firstZero bits).map (· + 1)

/-- R134: `leading_ones(v)`, the smallest `i` with `v[i] = 0`, or none. -/
def leadingOnes (v : BitVector) : Option Nat := firstZero (bitsOf v)

/-- R135 (b), R225: the page count, rounded up. -/
def pages (n : Nat) : Nat := (n + (Config.pageSize - 1)) / Config.pageSize

end Sys2Proof.Machine
end

