-- ==== Sys2Proof/Machine/TapGraph.lean ====
section
/-! DEFINITION. The TAP graph of spec/41_tap_controller.md: the next-state function (R143) and the
shortest walk between two states (R144), found by breadth-first search as R144 asks. -/

namespace Sys2Proof.Machine

/-- R143: one tick of the TAP graph. -/
def nextState (s : TapState) (tms : Bool) : TapState :=
  match s, tms with
  | .reset, false => .idle
  | .reset, true => .reset
  | .idle, false => .idle
  | .idle, true => .selectDr
  | .selectDr, false => .captureDr
  | .selectDr, true => .selectIr
  | .captureDr, false => .shiftDr
  | .captureDr, true => .exit1Dr
  | .shiftDr, false => .shiftDr
  | .shiftDr, true => .exit1Dr
  | .exit1Dr, false => .drPause
  | .exit1Dr, true => .updateDr
  | .drPause, false => .drPause
  | .drPause, true => .exit2Dr
  | .exit2Dr, false => .shiftDr
  | .exit2Dr, true => .updateDr
  | .updateDr, false => .idle
  | .updateDr, true => .selectDr
  | .selectIr, false => .captureIr
  | .selectIr, true => .reset
  | .captureIr, false => .shiftIr
  | .captureIr, true => .exit1Ir
  | .shiftIr, false => .shiftIr
  | .shiftIr, true => .exit1Ir
  | .exit1Ir, false => .irPause
  | .exit1Ir, true => .updateIr
  | .irPause, false => .irPause
  | .irPause, true => .exit2Ir
  | .exit2Ir, false => .shiftIr
  | .exit2Ir, true => .updateIr
  | .updateIr, false => .idle
  | .updateIr, true => .selectDr

/-- The state that a string of TMS bits leads to. -/
def walkState (s : TapState) (tms : List Bool) : TapState := tms.foldl nextState s

/-- One level of the search: every frontier entry (a state, and the TMS bits that led to it, last
first) is extended by TMS = 0 and by TMS = 1; a state already reached is not kept twice. -/
def searchLevel (seen : List TapState) (frontier : List (TapState × List Bool)) :
    List (TapState × List Bool) :=
  frontier.foldl (fun level entry =>
    [false, true].foldl (fun level tms =>
      let s := nextState entry.1 tms
      if s ∈ seen ∨ s ∈ level.map Prod.fst then level else level ++ [(s, tms :: entry.2)]) level) []

/-- Breadth-first search for a target, level by level, at most `fuel` levels. -/
def searchPath (target : TapState) : Nat → List TapState → List (TapState × List Bool) → List Bool
  | 0, _, _ => []
  | fuel + 1, seen, frontier =>
    match frontier.find? (fun entry => entry.1 = target) with
    | some entry => entry.2.reverse
    | none =>
      let level := searchLevel seen frontier
      searchPath target fuel (seen ++ level.map Prod.fst) level

/-- R144: `path(from, to)`, the TMS bits of the shortest walk, first tick first; the longest has
8 ticks, so 9 levels suffice. Six walks pass a shift state in their middle (log 25). -/
def path (source target : TapState) : List Bool :=
  searchPath target 9 [source] [(source, [])]

/-- R84: the 4-bit code of a state. -/
def stateCode (s : TapState) : BitVec 4 :=
  match s with
  | .reset => 0
  | .idle => 1
  | .selectDr => 2
  | .captureDr => 3
  | .shiftDr => 4
  | .exit1Dr => 5
  | .drPause => 6
  | .exit2Dr => 7
  | .updateDr => 8
  | .selectIr => 9
  | .captureIr => 10
  | .shiftIr => 11
  | .exit1Ir => 12
  | .irPause => 13
  | .exit2Ir => 14
  | .updateIr => 15

/-- R84: all 16 codes are legal. -/
def stateOfCode (code : BitVec 4) : TapState :=
  match code.toNat with
  | 0 => .reset
  | 1 => .idle
  | 2 => .selectDr
  | 3 => .captureDr
  | 4 => .shiftDr
  | 5 => .exit1Dr
  | 6 => .drPause
  | 7 => .exit2Dr
  | 8 => .updateDr
  | 9 => .selectIr
  | 10 => .captureIr
  | 11 => .shiftIr
  | 12 => .exit1Ir
  | 13 => .irPause
  | 14 => .exit2Ir
  | _ => .updateIr

end Sys2Proof.Machine
end

