-- ==== Sys2Proof/Machine/Operands.lean ====
section
/-! DEFINITION. Every operand form of the host frame: spec/30_encoding.md R83, R84, R85. Each
reader gives the operation's typed operands, or refuses the frame with `BadOperand` where a field
the operation does not use is not zero or a bit operand is mis-packed. Lengths, states and ranges
are judged by the operations, in the order of spec/60_exceptions.md R269. -/

namespace Sys2Proof.Machine

/-- What an operand reader gives: the operands, or the refusal. -/
abbrev Operand (α : Type) := Except RefusedDetail α

/-- R83: the flag bits outside a mask are zero. -/
def flagsWithin (f : HostFields) (mask : Byte) : Bool := f.flags &&& ~~~mask = 0#8

/-- R83: the operands, if every unused field is zero or empty. -/
def operandIf {α : Type} (legal : Bool) (operands : α) : Operand α :=
  if legal then .ok operands else .error .badOperand

/-- R84: the state in flag bits 3:0. -/
def flagState (f : HostFields) : TapState := stateOfCode (f.flags.extractLsb' 0 4)

/-- R85: a packed operand of `len` bits, by its payload's length and zero pad bits. -/
def packedWell (len : Nat) (payload : List Byte) : Bool :=
  payload.length = packedLength len && fromBe payload < 2 ^ len

/-- An operation with no operands. -/
def noOperands (f : HostFields) : Operand Unit :=
  operandIf (f.flags = 0#8 && f.a = 0#32 && f.b = 0#32 && f.payload = []) ()

/-- `MOVE_TO_STATE`: `a[3:0]` is the target, `a[31:4]` zero. -/
def moveToStateOperands (f : HostFields) : Operand TapState :=
  operandIf (f.flags = 0#8 && f.a.toNat < 16 && f.b = 0#32 && f.payload = [])
    (stateOfCode (f.a.extractLsb' 0 4))

/-- The operands of `SHIFT_INSTRUCTION`. -/
structure InstructionShift where
  stateAfter : TapState
  length : Nat
  opcode : Nat
  deriving DecidableEq, Repr

/-- `SHIFT_INSTRUCTION`: `flags[3:0]`, `a`, and the opcode packed by R85. -/
def shiftInstructionOperands (f : HostFields) : Operand InstructionShift :=
  operandIf (flagsWithin f 0x0F#8 && f.b = 0#32 && packedWell f.a.toNat f.payload)
    ⟨flagState f, f.a.toNat, fromBe f.payload⟩

/-- The operands of `SHIFT_DATA`; `tdi` is the payload where `TDI_PRESENT` is set. -/
structure DataShift where
  stateAfter : TapState
  length : Nat
  order : ShiftOrder
  tdi : Option (List Byte)
  deriving DecidableEq, Repr

/-- R85: the payload of a `SHIFT_DATA` is empty without `TDI_PRESENT`; packed by R85 in native
order; a plain byte string in wire order (its length against a bit length that is no multiple of
8: log 16). -/
def dataPayloadWell (order : ShiftOrder) (present : Bool) (len : Nat) (payload : List Byte) : Bool :=
  if present then
    match order with
    | .native => packedWell len payload
    | .wire => payload.length = packedLength len
  else payload = []

/-- `SHIFT_DATA`: `flags[3:0]`, `flags[4]` = `TDI_PRESENT`, `flags[5]` = `WIRE_ORDER`, `a`, and the
payload. -/
def shiftDataOperands (f : HostFields) : Operand DataShift :=
  let present := f.flags.getLsbD 4
  let order := if f.flags.getLsbD 5 then ShiftOrder.wire else ShiftOrder.native
  operandIf (flagsWithin f 0x3F#8 && f.b = 0#32 && dataPayloadWell order present f.a.toNat f.payload)
    ⟨flagState f, f.a.toNat, order, if present then some f.payload else none⟩

/-- `RUN_TEST`: `flags[3:0]` is `run_state`, `a` is `cycles`. -/
def runTestOperands (f : HostFields) : Operand (TapState × Nat) :=
  operandIf (flagsWithin f 0x0F#8 && f.b = 0#32 && f.payload = []) (flagState f, f.a.toNat)

/-- `FORCE_BITBANG`: `flags[0]` is `enable`. -/
def forceBitbangOperands (f : HostFields) : Operand Bool :=
  operandIf (flagsWithin f 0x01#8 && f.a = 0#32 && f.b = 0#32 && f.payload = []) (f.flags.getLsbD 0)

/-- An operation whose one operand is `a`: `SET_INDICATOR`, `REG_READ`, `SPI_REG_READ`. -/
def scalarOperand (f : HostFields) : Operand Nat :=
  operandIf (f.flags = 0#8 && f.b = 0#32 && f.payload = []) f.a.toNat

/-- `REG_TRANSACTION`: `flags[0]` is `is_write`, `a` the address, the payload the value, whose
length is judged once the widths are known (R173). -/
def regTransactionOperands (f : HostFields) : Operand (Nat × Bool × List Byte) :=
  operandIf (flagsWithin f 0x01#8 && f.b = 0#32) (f.a.toNat, f.flags.getLsbD 0, f.payload)

/-- `REG_WRITE`: `a` is the address, the payload the value. -/
def regWriteOperands (f : HostFields) : Operand (Nat × List Byte) :=
  operandIf (f.flags = 0#8 && f.b = 0#32) (f.a.toNat, f.payload)

/-- `CONFIGURE`: the payload is the bitstream. -/
def configureOperands (f : HostFields) : Operand (List Byte) :=
  operandIf (f.flags = 0#8 && f.a = 0#32 && f.b = 0#32) f.payload

/-- The operands of `FLASH`. -/
structure FlashWrite where
  unprotect : Bool
  eraseFirst : Bool
  offset : Nat
  bitstream : List Byte
  deriving DecidableEq, Repr

/-- `FLASH`: `flags[0]` = `UNPROTECT`, `flags[1]` = `ERASE_FIRST`, `a` the offset, the payload the
bitstream. -/
def flashOperands (f : HostFields) : Operand FlashWrite :=
  operandIf (flagsWithin f 0x03#8 && f.b = 0#32)
    ⟨f.flags.getLsbD 0, f.flags.getLsbD 1, f.a.toNat, f.payload⟩

/-- `READ_FLASH`: `a` is the offset, `b` the length. -/
def readFlashOperands (f : HostFields) : Operand (Nat × Nat) :=
  operandIf (f.flags = 0#8 && f.payload = []) (f.a.toNat, f.b.toNat)

/-- `SPI_TRANSFER`: `flags[0]` is `invert_cs`, the payload the data. -/
def spiTransferOperands (f : HostFields) : Operand (Bool × List Byte) :=
  operandIf (flagsWithin f 0x01#8 && f.a = 0#32 && f.b = 0#32) (f.flags.getLsbD 0, f.payload)

/-- `SPI_REG_TRANSACTION`: `flags[0]` is `is_write`, `a` the address, `b` the value. -/
def spiRegTransactionOperands (f : HostFields) : Operand (Nat × Bool × Word32) :=
  operandIf (flagsWithin f 0x01#8 && f.payload = []) (f.a.toNat, f.flags.getLsbD 0, f.b)

/-- `SPI_REG_WRITE`: `a` is the address, `b` the value. -/
def spiRegWriteOperands (f : HostFields) : Operand (Nat × Word32) :=
  operandIf (f.flags = 0#8 && f.payload = []) (f.a.toNat, f.b)

end Sys2Proof.Machine
end

