-- ==== Sys2Proof/Machine/Ops.lean ====
section
/-! DEFINITION. The named operations every meaning is written over: the primitives of
spec/00_scope.md R12 (tick, now, delay, indicator, PROGRAM pulse, direct SPI, warn, raise), cleanup
blocks, poll loops, taking an error (spec/60_exceptions.md R265, the engine's exception entry) and
returning from a command (spec/30_encoding.md R101). -/

namespace Sys2Proof.Machine

/-! ### Running an operation -/

/-- How an operation ends without returning: an error with the record built at the raise (R265 step
3), a poll loop that never ends (U11), or the reset input (R290). -/
inductive Abort where
  | raised (r : Raise) (record : ErrorRecord)
  | stuck
  | reset
  deriving DecidableEq, Repr

/-- R13: an operation, which returns its result or ends in one error, in the state it leaves
behind. What an error does not undo stays (R265). -/
abbrev Engine (α : Type) := EStateM Abort State α

/-- Write state elements. -/
def update (change : State → State) : Engine Unit := fun s => .ok () (change s)

/-- Read the state. -/
def observe {α : Type} (read : State → α) : Engine α := fun s => .ok (read s) s

/-- R267: the record of an error raised in a state. -/
def errorRecord (r : Raise) (s : State) : ErrorRecord where
  kind := raiseKind r
  detail := raiseDetail r
  op := s.seqOp
  phase := s.seqPhase
  opcode := raiseOpcode r s.seqOpcode
  errcode := raiseErrcode r
  status := raiseStatus r

/-- R12, R265: abandon the running operation. The record takes `seq.*` as they are at the raise,
before any cleanup changes them. -/
def raise {α : Type} (r : Raise) : Engine α := fun s => .error (.raised r (errorRecord r s)) s

/-- Raise an error already raised before (a teardown error kept until the cleanup is over). -/
def abortWith {α : Type} (e : Abort) : Engine α := fun s => .error e s

/-- R264: refuse the command where a condition holds. -/
def refuseIf (condition : Bool) (d : RefusedDetail) : Engine Unit :=
  if condition then raise (.refused d) else pure ()

/-- Run a block where a condition holds. -/
def runIf (condition : Bool) (body : Engine Unit) : Engine Unit :=
  if condition then body else pure ()

/-- The operands of a reader, or its refusal. -/
def takeOperands {α : Type} (operands : Operand α) : Engine α :=
  match operands with
  | .ok x => pure x
  | .error d => raise (.refused d)

/-- R265 step 2, R266: a body with a cleanup block, told whether the body raised. An error of the
block itself is the operation's error only when the body returned. A reset runs no cleanup block,
and ends one that runs (R290); a stuck body has no exit. -/
def withCleanup {α : Type} (body : Engine α) (cleanup : Bool → Engine Unit) : Engine α := fun s =>
  match body s with
  | .ok x s' =>
    match cleanup false s' with
    | .ok _ s'' => .ok x s''
    | .error e s'' => .error e s''
  | .error (.raised r record) s' =>
    match cleanup true s' with
    | .ok _ s'' => .error (.raised r record) s''
    | .error (.raised _ _) s'' => .error (.raised r record) s''
    | .error e s'' => .error e s''
  | .error e s' => .error e s'

/-- R196 `attempt`: run a block and answer the error it raised, if any. -/
def attempt (body : Engine Unit) : Engine (Option (Raise × ErrorRecord)) := fun s =>
  match body s with
  | .ok _ s' => .ok none s'
  | .error (.raised r record) s' => .ok (some (r, record)) s'
  | .error e s' => .error e s'

/-! ### The trace and the oracles -/

/-- Record an event (R18). -/
def emit (e : Event) (s : State) : State := { s with trace := e :: s.trace }

/-- The link's answer to the next exchange: what the state holds, or a free one (log 7). -/
def linkAnswer (s : State) : LinkAnswer := s.link.headD (Config.freeLinkAnswer s.linkCount)

/-- One link exchange made. -/
def nextLink (s : State) : State := { s with link := s.link.tail, linkCount := s.linkCount + 1 }

/-- The direct SPI answer to the next exchange: what the state holds, or a free one (log 9). -/
def spiAnswer (s : State) : SpiAnswer := s.spi.headD (Config.freeSpiAnswer s.spiCount)

/-- One direct SPI exchange made. -/
def nextSpi (s : State) : State := { s with spi := s.spi.tail, spiCount := s.spiCount + 1 }

/-- How far the clock moves before the next read: what the state holds, or free (log 8). -/
def clockAdvance (s : State) : Nat := s.clock.headD (Config.freeClockAdvance s.clockCount)

/-! ### The reset input -/

/-- R290: reset is asserted now, before the engine's next primitive step. -/
def resetDue (s : State) : Bool := s.resets.head? = some 0

/-- One primitive step fewer before the next assertion of reset. -/
def stepsLeft : List Nat → List Nat
  | (n + 1) :: later => n :: later
  | resets => resets

/-- A primitive step counts towards the next assertion of reset. -/
def countdown (s : State) : State := { s with resets := stepsLeft s.resets }

/-- R290 (3): a primitive step, or, where reset is asserted instead, the end of the command where
it stands. -/
def primitive {α : Type} (act : Engine α) : Engine α := fun s =>
  if resetDue s then .error .reset s else act (countdown s)

/-- ASSERTING RESET on a live engine, R290 and R38: every state element takes its reset value. No pin
is driven and nothing is recorded; the trace, the oracles' inputs and the clock are the outside
world's and go on (log 26). -/
def assertReset (s : State) : State :=
  { State.reset with
    trace := s.trace
    link := s.link
    linkCount := s.linkCount
    spi := s.spi
    spiCount := s.spiCount
    time := s.time
    clock := s.clock
    clockCount := s.clockCount
    resets := s.resets.tail }

/-! ### Primitives -/

/-- R52: the state after a good tick: the event recorded, the tracked state advanced. -/
def afterTick (tms tdi tdo : Bool) (s : State) : State :=
  { emit (.tick tms tdi tdo s.tapBitbang) (nextLink s) with tapState := nextState s.tapState tms }

/-- R52, R262: what the link's answer to one TCK period does. At a faulted exchange no event is
recorded and the tracked state stays. -/
def linkExchange (tms tdi : Bool) : Engine Bool := fun s =>
  match linkAnswer s with
  | .bit tdo => .ok tdo (afterTick tms tdi tdo s)
  | .notSupported => raise .notSupported (nextLink s)
  | .io => raise (.transportError .linkIo) (nextLink s)
  | .timeout => raise (.transportError .linkTimeout) (nextLink s)
  | .malformed => raise (.transportError .malformed) (nextLink s)

/-- R52: one TCK period. -/
def tick (tms tdi : Bool) : Engine Bool := primitive (linkExchange tms tdi)

/-- R248, R262: what the answer of the direct SPI pins to one exchange does; its faults are those of
a tick. -/
def spiExchange (csInverted : Bool) (out : List Byte) : Engine (List Byte) := fun s =>
  match spiAnswer s with
  | .bytes received =>
    if received.length = out.length then
      .ok received (emit (.spiDirect csInverted out received) (nextSpi s))
    else raise (.transportError .malformed) (nextSpi s)
  | .notSupported => raise .notSupported (nextSpi s)
  | .io => raise (.transportError .linkIo) (nextSpi s)
  | .timeout => raise (.transportError .linkTimeout) (nextSpi s)
  | .malformed => raise (.transportError .malformed) (nextSpi s)

/-- R248: one exchange on the direct SPI pins. -/
def spiDirect (csInverted : Bool) (out : List Byte) : Engine (List Byte) :=
  primitive (spiExchange csInverted out)

/-- R280, R46: what reading the clock, which never runs backwards, does. -/
def readClock : Engine Nat := fun s =>
  let t := s.time + clockAdvance s
  .ok t (emit (.clockRead t)
    { s with time := t, clock := s.clock.tail, clockCount := s.clockCount + 1 })

/-- R280: read the clock. -/
def now : Engine Nat := primitive readClock

/-- R281, R46: let time pass; the next read is at least `t` later. -/
def delay (t : Nat) : Engine Unit :=
  primitive (update fun s => emit (.delay t) { s with time := s.time + t })

/-- R283: hand a pattern id to the indicator sink. -/
def indicator (p : Nat) : Engine Unit := primitive (update (emit (.indicator p)))

/-- R29: write `ind.pattern`. -/
def setPattern (p : Nat) : Engine Unit := update fun s => { s with indPattern := p }

/-- R284: toggle the PROGRAM pin. -/
def programPulse : Engine Unit := primitive (update (emit .programPulse))

/-- R268: emit a warning; nothing else changes. -/
def warn (w : Warning) : Engine Unit := primitive (update (emit (.warn w)))

/-- R30: the operation reached a phase. -/
def setPhase (p : Nat) : Engine Unit := update fun s => { s with seqPhase := p }

/-- R30: the operation issues a JTAG or flash opcode; who does: log 21. -/
def setOpcode (opcode : Byte) : Engine Unit := update fun s => { s with seqOpcode := opcode }

/-! ### Poll loops -/

/-- R282, R191, R219, R220: poll until done; after each unsuccessful poll compare the clock with
the deadline, then sleep. Where the polls run out, the loop is stuck (log 12). -/
def pollLoop (P : Params) (poll : Engine Bool) (deadline : Nat) (awaited : Byte) : Nat → Engine Unit
  | 0 => abortWith .stuck
  | polls + 1 => do
    let done ← poll
    if done then pure ()
    else do
      let t ← now
      if deadline < t then raise (.timeout awaited)
      else do
        delay P.tPollSleep
        pollLoop P poll deadline awaited polls

/-- R282: the deadline is computed once, before the first poll. With `T_POLL_SLEEP > 0` no loop
makes more than `timeout + 2` polls, so the bound is never spent (log 12). -/
def pollUntil (P : Params) (timeout : Nat) (awaited : Byte) (poll : Engine Bool) : Engine Unit := do
  let start ← now
  pollLoop P poll (start + timeout) awaited (timeout + 2)

/-! ### The command cycle -/

/-- R81, R135: a number in a response field. A value that fits is exact; nothing is reduced modulo the
field, so one that does not is a free value there (log 20). -/
def responseField (width value : Nat) : BitVec width :=
  if value < 2 ^ width then BitVec.ofNat width value else Config.freeField width value

/-- R81: the response of a command that returned `data`. -/
def okResponse (data : List Byte) : List Byte :=
  [0, 0, 0, 0] ++ be4 0 ++ be4 (responseField 32 data.length) ++ data

/-- R81: the response of a command that ended in an error: its record, and no data. -/
def errorResponse (e : ErrorRecord) : List Byte :=
  [kindCode e.kind, responseField 8 e.phase, e.opcode, e.detail ++ e.errcode]
    ++ be4 e.status ++ be4 0

/-- R101: a command starts: `seq.op` is its operation code, `seq.phase` and `seq.opcode` 0. -/
def beginCommand (op : Option Byte) (s : State) : State :=
  { s with seqOp := op, seqPhase := 0, seqOpcode := 0#8 }

/-- The end of every command: `seq.*` cleared, the response written, the frame taken off the port
(R101, log 2). -/
def endCommand (response : List Byte) (s : State) : State :=
  { s with seqOp := none, seqPhase := 0, seqOpcode := 0#8, hostResp := response, hostCmd := none }

/-- TAKING AN ERROR, R265 steps 3 to 5: the record goes to `err.last` and into the response, and
`seq.*` is cleared. It is the engine's exception entry, and (R270) its return too. -/
def takeError (e : ErrorRecord) (s : State) : State :=
  endCommand (errorResponse e) { s with errLast := some e }

/-- RETURNING, R101: `err.last` stays, the response carries the result. -/
def finishCommand (data : List Byte) (s : State) : State := endCommand (okResponse data) s

/-- What a step answers for the way a command ended; an abandoned one sends no response (R290). -/
def commandOutcome (result : EStateM.Result Abort State (List Byte)) :
    Host.Outcome State Fault Refusal :=
  match result with
  | .ok data s => .next (finishCommand data s)
  | .error (.raised _ record) s => .next (takeError record s)
  | .error .stuck _ => .fault .pollStuck
  | .error .reset s => .next (assertReset s)

/-- R101: one command, from its start to its response. -/
def commandCycle (op : Option Byte) (body : Engine (List Byte)) (s : State) :
    Host.Outcome State Fault Refusal :=
  commandOutcome (body (beginCommand op s))

/-- R142, R273: every operation but `ACQUIRE` needs an open session. -/
def requireOwner : Engine Unit := do
  let owner ← observe State.tapOwner
  refuseIf (!owner) .notOwner

/-- A host operation other than `ACQUIRE`: the owner check, then the operation (R269). -/
def ownedCommand (op : Byte) (body : Engine (List Byte)) (s : State) :
    Host.Outcome State Fault Refusal :=
  commandCycle (some op) (do requireOwner; body) s

/-- A row of the wire tables run by itself, on the sequencer's issue path: there is no host
operation code, and the session must be open as for every operation (R142, log 3). -/
def issuedCommand (body : Engine (List Byte)) (s : State) : Host.Outcome State Fault Refusal :=
  commandCycle none (do requireOwner; body) s

/-- R96, R101: a host frame that decodes to no operation is refused, with its byte 0 as `op`. -/
def refuseFrame (op : Option Byte) (d : RefusedDetail) (s : State) :
    Host.Outcome State Fault Refusal :=
  commandCycle op (raise (.refused d)) s

end Sys2Proof.Machine
end

