-- ==== Sys2Proof/Machine/Tap.lean ====
section
/-! DEFINITION. TAPC, spec/41_tap_controller.md: session, state moves, shifts, run-test clocking,
enumeration, modes and sinks. -/

namespace Sys2Proof.Machine

/-! ### Shared operations -/

/-- Ticks that shift nothing: TDI is 0 (R145, decision D7). -/
def walk : List Bool → Engine Unit
  | [] => pure ()
  | tms :: rest => do
    let _ ← tick tms false
    walk rest

/-- R145: `MOVE_TO_STATE(target)`, along the shortest path from the tracked state. -/
def moveToState (target : TapState) : Engine Unit := do
  let source ← observe State.tapState
  walk (path source target)

/-- R154: no instruction and no data register are known to be latched. -/
def forgetLatched (s : State) : State := { s with ghostIr := none, ghostDrDefined := false }

/-- R146: `TAP_RESET()`, five ticks with TMS = 1 whatever the tracked state. -/
def tapReset : Engine Unit := do
  walk (List.replicate 5 true)
  update fun s => forgetLatched { s with tapState := .reset }

/-- R147: `sh.out` takes the payload and `sh.in` the empty vector; both stay after it (log 23). -/
def loadShift (v : BitVector) (s : State) : State := { s with shOut := v, shIn := ⟨0, 0⟩ }

/-- R147: the bit sampled at shift tick `i` becomes bit `i` of `sh.in`. -/
def captureBit (tdo : Bool) (s : State) : State :=
  { s with shIn := ⟨s.shIn.len + 1, s.shIn.val + tdo.toNat * 2 ^ s.shIn.len⟩ }

/-- R147: the shift ticks, one bit each way; the last has TMS = 1 where the shift state is left. -/
def shiftBits (leave : Bool) : List Bool → Engine Unit
  | [] => pure ()
  | b :: rest => do
    let tdo ← tick (leave && rest.isEmpty) b
    update (captureBit tdo)
    shiftBits leave rest

/-- R147: `shift_reg(shift_state, v, state_after)`. -/
def shiftReg (shiftState : TapState) (v : BitVector) (stateAfter : TapState) : Engine BitVector := do
  moveToState shiftState
  update (loadShift v)
  shiftBits (stateAfter ≠ shiftState) (bitsOf v)
  moveToState stateAfter
  observe State.shIn

/-- R148: `SHIFT_INSTRUCTION(opcode, length, state_after)`. -/
def shiftInstruction (opcode length : Nat) (stateAfter : TapState) : Engine BitVector := do
  refuseIf (length = 0) .badLength
  let r ← shiftReg .shiftIr (fromInt opcode length) stateAfter
  update fun s => { s with ghostIr := some ⟨length, opcode⟩, ghostDrDefined := false }
  pure r

/-- R149: the BitVector form of `SHIFT_DATA`; without `tdi` all-ones are shifted out. -/
def shiftData (tdi : Option BitVector) (length : Nat) (stateAfter : TapState) : Engine BitVector := do
  refuseIf (length = 0) .badLength
  let r ← shiftReg .shiftDr (tdi.getD (ones length)) stateAfter
  update fun s => { s with ghostDrDefined := true }
  pure r

/-- R149, R133: `SHIFT_DATA(tdi, length, state_after, order)` on the host's bytes. -/
def shiftDataOrdered (op : DataShift) : Engine (List Byte) := do
  refuseIf (op.length = 0) .badLength
  refuseIf (op.order = .wire && op.length % 8 ≠ 0) .badLength
  let r ← shiftData (op.tdi.map (muxOut op.order op.length)) op.length op.stateAfter
  pure (muxIn op.order r)

/-- R150: the states that TMS = 0 holds and that do not shift. -/
def isRunState (s : TapState) : Bool := s = .idle || s = .drPause || s = .irPause

/-- R150: `RUN_TEST(cycles, run_state)`. -/
def runTest (cycles : Nat) (runState : TapState) : Engine Unit := do
  refuseIf (!isRunState runState) .badState
  moveToState runState
  walk (List.replicate cycles false)

/-- R152: `part_lookup(id)`. -/
def partLookup (P : Params) (id : Word32) : Option (String × String) :=
  (P.partTable.find? (fun row => row.idcode = id)).map (fun row => (row.family, row.name))

/-- R151, R194: an id of all zeros or all ones means no device. -/
def noDeviceId (id : Word32) : Bool := id = 0#32 || id = BitVec.allOnes 32

/-- R151: the read loop of an enumeration, at most `n` reads. -/
def enumerateLoop (P : Params) : Nat → List JtagDevice → Engine (List JtagDevice)
  | 0, devices => pure devices
  | n + 1, devices => do
    let r ← shiftData none Config.idcodeBits .drPause
    let id := BitVec.ofNat 32 (toInt r)
    if noDeviceId id then pure devices
    else enumerateLoop P n (devices ++ [⟨id, partLookup P id⟩])

/-- R151: `ENUMERATE()`. -/
def enumerate (P : Params) : Engine (List JtagDevice) := do
  tapReset
  let _ ← shiftInstruction P.opcReadId.toNat Config.irLen .irPause
  let devices ← enumerateLoop P P.maxDevices []
  moveToState .idle
  pure devices

/-! ### The commands -/

/-- `ACQUIRE`, R140; its own session test comes before its operand test (R269). -/
def execAcquire (f : HostFields) (s : State) : Host.Outcome State Fault Refusal :=
  commandCycle (some opAcquire) (do
    let owner ← observe State.tapOwner
    refuseIf owner .busy
    takeOperands (noOperands f)
    update fun s => forgetLatched { s with tapOwner := true }
    pure []) s

/-- `RELEASE`, R141. -/
def execRelease (f : HostFields) (s : State) : Host.Outcome State Fault Refusal :=
  ownedCommand opRelease (do
    takeOperands (noOperands f)
    update fun s => { s with tapBitbang := false, rafValid := false, tapOwner := false }
    pure []) s

/-- `TAP_RESET`, R146. -/
def execTapReset (f : HostFields) (s : State) : Host.Outcome State Fault Refusal :=
  ownedCommand opTapReset (do
    takeOperands (noOperands f)
    tapReset
    pure []) s

/-- `MOVE_TO_STATE`, R145. -/
def execMoveToState (f : HostFields) (s : State) : Host.Outcome State Fault Refusal :=
  ownedCommand opMoveToState (do
    let target ← takeOperands (moveToStateOperands f)
    moveToState target
    pure []) s

/-- `SHIFT_INSTRUCTION`, R148. -/
def execShiftInstruction (f : HostFields) (s : State) : Host.Outcome State Fault Refusal :=
  ownedCommand opShiftInstruction (do
    let op ← takeOperands (shiftInstructionOperands f)
    let r ← shiftInstruction op.opcode op.length op.stateAfter
    pure (muxIn .native r)) s

/-- `SHIFT_DATA`, R149. -/
def execShiftData (f : HostFields) (s : State) : Host.Outcome State Fault Refusal :=
  ownedCommand opShiftData (do
    let op ← takeOperands (shiftDataOperands f)
    shiftDataOrdered op) s

/-- `RUN_TEST`, R150. -/
def execRunTest (f : HostFields) (s : State) : Host.Outcome State Fault Refusal :=
  ownedCommand opRunTest (do
    let op ← takeOperands (runTestOperands f)
    runTest op.2 op.1
    pure []) s

/-- The response data of `ENUMERATE`, R83: `be_4(idcode)` per device, in chain order. -/
def deviceBytes (devices : List JtagDevice) : List Byte := devices.flatMap (fun d => be4 d.idcode)

/-- `ENUMERATE` at any parameters. -/
def enumerateCommand (P : Params) (f : HostFields) : Engine (List Byte) := do
  takeOperands (noOperands f)
  let devices ← enumerate P
  pure (deviceBytes devices)

/-- `ENUMERATE`, R151. -/
def execEnumerate (f : HostFields) (s : State) : Host.Outcome State Fault Refusal :=
  ownedCommand opEnumerate (enumerateCommand Config.params f) s

/-- `FORCE_BITBANG`, R153. -/
def execForceBitbang (f : HostFields) (s : State) : Host.Outcome State Fault Refusal :=
  ownedCommand opForceBitbang (do
    let enable ← takeOperands (forceBitbangOperands f)
    update fun s => { s with tapBitbang := enable }
    pure []) s

/-- `PLAY_PATTERN`, R157: refused with `OutOfScope`, which is tested before any operand (R269). -/
def execPlayPattern (_f : HostFields) (s : State) : Host.Outcome State Fault Refusal :=
  ownedCommand opPlayPattern (raise (.refused .outOfScope)) s

/-- `SET_INDICATOR`, R155. -/
def execSetIndicator (f : HostFields) (s : State) : Host.Outcome State Fault Refusal :=
  ownedCommand opSetIndicator (do
    let pattern ← takeOperands (scalarOperand f)
    indicator pattern
    setPattern pattern
    pure []) s

end Sys2Proof.Machine
end

