-- ==== Sys2Proof/Machine/Sequencer.lean ====
section
/-! DEFINITION. CFGSEQ, spec/43_ecp5_sequencer.md: ECP5 commands, status checks, the configuration
session and its teardown, `CONFIGURE`, `UNCONFIGURE` and `TRIGGER_RECONFIGURATION`. -/

namespace Sys2Proof.Machine

/-- R186: the requirements of a status check. -/
structure StatusCheck where
  requireDone : Bool
  requireIsc : Bool
  continueAnyway : Bool
  deriving DecidableEq, Repr

/-- R187: `READ_STATUS()`. -/
def readStatus (P : Params) : Engine Word32 := do
  setOpcode P.opcLscReadStatus
  let _ ← shiftInstruction P.opcLscReadStatus.toNat Config.irLen .irPause
  let r ← shiftData none Config.statusBits .idle
  pure (BitVec.ofNat 32 (toInt r))

/-- R190: one warning for each violation, in order. -/
def warnViolations (status : Word32) : List Violation → Engine Unit
  | [] => pure ()
  | v :: rest => do
    warn (.statusViolation v status)
    warnViolations status rest

/-- R190: what becomes of the violations: nothing when there are none, warnings under
`continue_anyway`, otherwise the first is raised. -/
def judgeViolations (status : Word32) (errcode : BitVec 3) (continueAnyway : Bool)
    (found : List Violation) : Engine Unit :=
  match found with
  | [] => pure ()
  | first :: rest =>
    if continueAnyway then warnViolations status (first :: rest)
    else raise (.protocolViolation first errcode status)

/-- R190: `VALIDATE_STATUS(s, require_done, require_isc, continue_anyway)`. -/
def validateStatus (P : Params) (status : Word32) (check : StatusCheck) : Engine Unit := do
  let f := decodeStatus P status
  runIf f.spiFail (warn (.spiFail status))
  judgeViolations status f.errcode check.continueAnyway
    (violations f check.requireDone check.requireIsc)

/-- A status read fresh and judged (R27, R190). -/
def checkStatus (P : Params) (check : StatusCheck) : Engine Unit := do
  let status ← readStatus P
  validateStatus P status check

/-- R186: the operand of a command, if it has one, as one data shift. -/
def shiftOperand (operand : Option BitVector) : Engine (Option BitVector) :=
  match operand with
  | none => pure none
  | some v => do
    let r ← shiftData (some v) v.len .drPause
    pure (some r)

/-- R186: the status check of a command, if it has one. -/
def shiftCheck (P : Params) (check : Option StatusCheck) : Engine Unit :=
  match check with
  | none => pure ()
  | some c => checkStatus P c

/-- R186: `EXEC_COMMAND(opc, operand, idle, idle_state, check)`. -/
def execCommand (P : Params) (opc : Byte) (operand : Option BitVector) (idle : Nat)
    (idleState : TapState) (check : Option StatusCheck) : Engine (Option BitVector) := do
  setOpcode opc
  let _ ← shiftInstruction opc.toNat Config.irLen .irPause
  let r ← shiftOperand operand
  runTest idle idleState
  shiftCheck P check
  pure r

/-- R191: one poll of `WAIT_FOR_COMPLETION`; only `busy` is judged. -/
def pollNotBusy (P : Params) : Engine Bool := do
  let status ← readStatus P
  pure (!(decodeStatus P status).busy)

/-- R191: `WAIT_FOR_COMPLETION(timeout)`; the awaited command is the last one issued. -/
def waitForCompletion (P : Params) (timeout : Nat) : Engine Unit := do
  let awaited ← observe State.seqOpcode
  pollUntil P timeout awaited (pollNotBusy P)

/-- R192: `RESTART()`. -/
def restart (P : Params) : Engine Unit :=
  match P.restartMode with
  | .refresh => do
    let _ ← execCommand P P.opcLscRefresh none P.nCmdIdle .idle none
    pure ()
  | .programPin => programPulse

/-- R193: `PRECONFIGURE()`. -/
def preconfigure (P : Params) : Engine Unit := do
  let _ ← execCommand P P.opcPreconf (some P.opdPreconf) P.nCmdIdle .idle none
  pure ()

/-- R194: `READ_PART_ID()`; the id is captured, and compared with nothing (R203). -/
def readPartId (P : Params) : Engine Word32 := do
  setOpcode P.opcReadId
  let _ ← shiftInstruction P.opcReadId.toNat Config.irLen .irPause
  let r ← shiftData none Config.idcodeBits .idle
  let id := BitVec.ofNat 32 (toInt r)
  if noDeviceId id then raise (.configurationMismatch .noDevice)
  else do
    update fun s => { s with cfgPartId := some id }
    pure id

/-- R195: a configuration session begins. -/
def sessionBegin : Engine Unit :=
  update fun s =>
    { s with cfgActive := true, cfgIsc := false, cfgBgspi := false, cfgPartId := none }

/-- R28: `cfg.isc`. -/
def setIsc (isc : Bool) : Engine Unit := update fun s => { s with cfgIsc := isc }

/-- R197, R199: `ISC_ENABLE`, marked before it is issued and checked after. -/
def iscEnable (P : Params) : Engine Unit := do
  setIsc true
  let _ ← execCommand P P.opcIscEnable (some P.opdIscEnable) P.nCmdIdle .idle
    (some ⟨false, true, false⟩)
  pure ()

/-- R197, R199: `ISC_ERASE`, unchecked. -/
def iscErase (P : Params) : Engine Unit := do
  let _ ← execCommand P P.opcIscErase (some P.opdIscErase) P.nCmdIdle .idle none
  pure ()

/-- R196, R197, R199: `ISC_DISABLE`, unmarked before it is issued. -/
def iscDisable (P : Params) (check : Option StatusCheck) : Engine Unit := do
  setIsc false
  let _ ← execCommand P P.opcIscDisable none P.nCmdIdle .idle check
  pure ()

/-- R197, R199: the erase step: issue, wait, re-read and log (R202: the one use of
`continue_anyway`). -/
def eraseAndWait (P : Params) : Engine Unit := do
  iscErase P
  waitForCompletion P P.tLongTimeout
  checkStatus P ⟨false, false, true⟩

/-- R197: `LSC_INIT_ADDRESS`. -/
def initAddress (P : Params) : Engine Unit := do
  let _ ← execCommand P P.opcLscInitAddress (some P.opdInitAddress) P.nCmdIdle .idle none
  pure ()

/-- R91, R201: the bitstream burst, one data shift in wire order; what comes back is discarded. -/
def burst (P : Params) (bitstream : List Byte) : Engine Unit := do
  setOpcode P.opcLscBitstreamBurst
  let _ ← shiftInstruction P.opcLscBitstreamBurst.toNat Config.irLen .irPause
  let _ ← shiftData (some (toWire bitstream)) (8 * bitstream.length) .drPause
  pure ()

/-- R196: the pin half of a teardown. -/
def teardownPins (P : Params) : Engine Unit := do
  let isc ← observe State.cfgIsc
  runIf isc (iscDisable P none)
  moveToState .idle

/-- R196: an error inside a teardown whose body failed is turned into a warning and dropped. -/
def judgeTeardown (failed : Bool) (e : Option (Raise × ErrorRecord)) :
    Engine (Option (Raise × ErrorRecord)) :=
  match e with
  | none => pure none
  | some (r, record) =>
    if failed then do
      warn (.teardownFailed r)
      pure none
    else pure (some (r, record))

/-- R196: `TEARDOWN(failed)`, up to its pending error: the three flags are cleared whatever
happens. -/
def teardown (P : Params) (failed : Bool) : Engine (Option (Raise × ErrorRecord)) := do
  let e ← attempt (teardownPins P)
  let pending ← judgeTeardown failed e
  update fun s => { s with cfgIsc := false, cfgBgspi := false, cfgActive := false }
  pure pending

/-- R196: the pending error of a teardown becomes the command's error. -/
def raisePending (pending : Option (Raise × ErrorRecord)) : Engine Unit :=
  match pending with
  | none => pure ()
  | some (r, record) => abortWith (.raised r record)

/-- The cleanup block of a session: its phase, then `TEARDOWN` (R266, log 22). -/
def sessionEnd (P : Params) (phase : Nat) (failed : Bool) : Engine Unit := do
  setPhase phase
  let pending ← teardown P failed
  raisePending pending

/-- R197, R198: the nine steps of `CONFIGURE`, phases 1 to 9. -/
def configureBody (P : Params) (bitstream : List Byte) : Engine Unit := do
  setPhase 1
  let _ ← readPartId P
  setPhase 2
  restart P
  delay P.tSettle
  setPhase 3
  preconfigure P
  setPhase 4
  iscEnable P
  setPhase 5
  eraseAndWait P
  setPhase 6
  initAddress P
  burst P bitstream
  setPhase 7
  runTest P.nCfgIdle .drPause
  setPhase 8
  checkStatus P ⟨true, false, false⟩
  setPhase 9
  iscDisable P (some ⟨true, false, false⟩)

/-- R197: the cleanup of `CONFIGURE`, phase 10: teardown, and the idle pattern on every path, also
where the teardown itself failed. -/
def configureEnd (P : Params) (failed : Bool) : Engine Unit := do
  setPhase 10
  let pending ← teardown P failed
  indicator P.indIdle
  setPattern P.indIdle
  raisePending pending

/-- R28, R83: the captured id in a response; it is there whenever `CONFIGURE` returns. -/
def partIdBytes (id : Option Word32) : List Byte := be4 (id.getD 0)

/-- R197: `CONFIGURE(bitstream)`. -/
def configure (P : Params) (bitstream : List Byte) : Engine (List Byte) := do
  refuseIf bitstream.isEmpty .badLength
  sessionBegin
  indicator P.indBusy
  setPattern P.indBusy
  withCleanup (configureBody P bitstream) (configureEnd P)
  observe (fun s => partIdBytes s.cfgPartId)

/-- R199: the steps of `UNCONFIGURE`, phases 1 to 5. -/
def unconfigureBody (P : Params) : Engine Unit := do
  setPhase 1
  restart P
  delay P.tSettle
  setPhase 2
  preconfigure P
  setPhase 3
  iscEnable P
  setPhase 4
  eraseAndWait P
  setPhase 5
  iscDisable P (some ⟨false, false, false⟩)

/-- R199: `UNCONFIGURE()`. -/
def unconfigure (P : Params) : Engine Unit := do
  sessionBegin
  withCleanup (unconfigureBody P) (sessionEnd P 6)

/-- R200: `TRIGGER_RECONFIGURATION()`. -/
def triggerReconfiguration (P : Params) : Engine Unit := do
  restart P
  runTest P.nReconfIdle .idle

/-! ### The commands, at any parameters and at the engine's -/

def configureCommand (P : Params) (f : HostFields) : Engine (List Byte) := do
  let bitstream ← takeOperands (configureOperands f)
  configure P bitstream

/-- `CONFIGURE`, R197. -/
def execConfigure (f : HostFields) (s : State) : Host.Outcome State Fault Refusal :=
  ownedCommand opConfigure (configureCommand Config.params f) s

def unconfigureCommand (P : Params) (f : HostFields) : Engine (List Byte) := do
  takeOperands (noOperands f)
  unconfigure P
  pure []

/-- `UNCONFIGURE`, R199. -/
def execUnconfigure (f : HostFields) (s : State) : Host.Outcome State Fault Refusal :=
  ownedCommand opUnconfigure (unconfigureCommand Config.params f) s

def triggerReconfigurationCommand (P : Params) (f : HostFields) : Engine (List Byte) := do
  takeOperands (noOperands f)
  triggerReconfiguration P
  pure []

/-- `TRIGGER_RECONFIGURATION`, R200. -/
def execTriggerReconfiguration (f : HostFields) (s : State) : Host.Outcome State Fault Refusal :=
  ownedCommand opTriggerReconfiguration (triggerReconfigurationCommand Config.params f) s

end Sys2Proof.Machine
end

