-- ==== Sys2Proof/Machine/FlashBridge.lean ====
section
/-! DEFINITION. SPIB, flash half, spec/44_spi_bridge_flash.md: background SPI, and the flash-family
operations. -/

namespace Sys2Proof.Machine

/-- R216: `ENTER_BACKGROUND_SPI()`; no status check, which would shift another instruction. -/
def enterBackgroundSpi (P : Params) : Engine Unit := do
  let _ ← execCommand P P.opcLscEnterBackgroundSpi (some P.opdBgspiUnlock) P.nCmdIdle .idle none
  update fun s => { s with cfgBgspi := true }

/-- R217: `BG_SPI_TRANSFER(out)`: one data shift in wire order and no instruction shift. -/
def bgSpiTransfer (out : List Byte) : Engine (List Byte) := do
  setOpcode (out.headD 0#8)
  let r ← shiftData (some (toWire out)) (8 * out.length) .idle
  pure (fromWire r)

/-- Byte `i` of a response, which has as many bytes as were sent (R217). -/
def byteAt (response : List Byte) (i : Nat) : Byte := response.getD i 0#8

/-- R94: the status read frame. -/
def readStatusFrame (P : Params) : List Byte := [P.flReadStatus, 0x00#8]

/-- R94: the protection-clear frame. -/
def writeStatusFrame (P : Params) : List Byte := [P.flWriteStatus, 0x00#8]

/-- R94: the JEDEC id frame. -/
def jedecFrame (P : Params) : List Byte := [P.flJedecId, 0x00#8, 0x00#8, 0x00#8]

/-- R94, R222: the unique-id frame, 13 bytes. -/
def readUidFrame (P : Params) : List Byte := P.flReadUid :: List.replicate 12 0x00#8

/-- R94: a write-page frame; the address is big-endian, three bytes. -/
def writePageFrame (P : Params) (addr : Nat) (chunk : List Byte) : List Byte :=
  P.flWritePage :: be3 (BitVec.ofNat 24 addr) ++ chunk

/-- R94: a read-page frame with `m` dummy bytes. -/
def readPageFrame (P : Params) (addr m : Nat) : List Byte :=
  P.flReadPage :: be3 (BitVec.ofNat 24 addr) ++ List.replicate m 0x00#8

/-- R226: the bytes of a read page's response after the command and address echo. -/
def pageData (response : List Byte) : List Byte := response.drop Config.echoBytes

/-- R221: the JEDEC response: the manufacturer byte, and the 24-bit id in a 32-bit field. -/
def jedecBytes (response : List Byte) : List Byte :=
  [byteAt response 1, 0x00#8, byteAt response 1, byteAt response 2, byteAt response 3]

/-- R222: the eight bytes of the unique id. -/
def uidBytes (response : List Byte) : List Byte := (response.drop 5).take 8

/-- R218: `flash_status()`. -/
def flashStatus (P : Params) : Engine Byte := do
  let response ← bgSpiTransfer (readStatusFrame P)
  pure (byteAt response 1)

/-- R219: one poll of the busy bit. -/
def pollFlashIdle (P : Params) : Engine Bool := do
  let status ← flashStatus P
  pure (!flashBusy P status)

/-- R219: `flash_wait_idle(timeout, awaited)`. -/
def flashWaitIdle (P : Params) (timeout : Nat) (awaited : Byte) : Engine Unit :=
  pollUntil P timeout awaited (pollFlashIdle P)

/-- R220: one poll of the write-enabled bit. -/
def pollFlashWel (P : Params) : Engine Bool := do
  let status ← flashStatus P
  pure (flashWel P status)

/-- R220: `flash_write_enable()`; the command is sent once, the bit is polled. -/
def flashWriteEnable (P : Params) : Engine Unit := do
  let _ ← bgSpiTransfer [P.flWriteEnable]
  pollUntil P P.tCtrlTimeout P.flWriteEnable (pollFlashWel P)

/-- R223, R224, R228: a modifying command: write-enable, the transaction, wait until not busy. -/
def flashModify (P : Params) (frame : List Byte) (timeout : Nat) (awaited : Byte) : Engine Unit := do
  flashWriteEnable P
  let _ ← bgSpiTransfer frame
  flashWaitIdle P timeout awaited

/-- The chip erase of R224's phase 3. -/
def chipErase (P : Params) : Engine Unit :=
  flashModify P [P.flChipErase] P.tLongTimeout P.flChipErase

/-- R224: the page loop: `count` pages from page `k` on. -/
def writePages (P : Params) (bitstream : List Byte) (offset : Nat) : Nat → Nat → Engine Unit
  | _, 0 => pure ()
  | k, count + 1 => do
    let addr := offset + k * Config.pageSize
    let chunk := (bitstream.drop (k * Config.pageSize)).take Config.pageSize
    flashModify P (writePageFrame P addr chunk) P.tCtrlTimeout P.flWritePage
    writePages P bitstream offset (k + 1) count

/-- R226: the read loop: `count` chunks from chunk `k` on, each of a page but the last. -/
def readPages (P : Params) (offset length : Nat) : Nat → Nat → Engine (List Byte)
  | _, 0 => pure []
  | k, count + 1 => do
    let done := k * Config.pageSize
    let m := min Config.pageSize (length - done)
    let response ← bgSpiTransfer (readPageFrame P (offset + done) m)
    let rest ← readPages P offset length (k + 1) count
    pure (pageData response ++ rest)

/-- R221: `READ_FLASH_ID()`. -/
def readFlashId (P : Params) : Engine (List Byte) := do
  sessionBegin
  let response ← withCleanup (do
    setPhase 1
    enterBackgroundSpi P
    setPhase 2
    bgSpiTransfer (jedecFrame P)) (sessionEnd P 3)
  pure (jedecBytes response)

/-- R222: `READ_FLASH_UID()`; R222 prints no phase numbers, those of R221 are taken (log 18). -/
def readFlashUid (P : Params) : Engine (List Byte) := do
  sessionBegin
  let response ← withCleanup (do
    setPhase 1
    enterBackgroundSpi P
    setPhase 2
    bgSpiTransfer (readUidFrame P)) (sessionEnd P 3)
  pure (uidBytes response)

/-- R223: `ERASE_FLASH()`. -/
def eraseFlash (P : Params) : Engine Unit := do
  sessionBegin
  withCleanup (do
    setPhase 1
    enterBackgroundSpi P
    setPhase 2
    flashWriteEnable P
    setPhase 3
    let _ ← bgSpiTransfer [P.flChipErase]
    flashWaitIdle P P.tLongTimeout P.flChipErase) (sessionEnd P 4)

/-- R224: the body of `FLASH`, phases 1 to 4, each entered (log 19). -/
def flashBody (P : Params) (op : FlashWrite) : Engine Unit := do
  setPhase 1
  enterBackgroundSpi P
  setPhase 2
  runIf op.unprotect (flashModify P (writeStatusFrame P) P.tCtrlTimeout P.flWriteStatus)
  setPhase 3
  runIf op.eraseFirst (chipErase P)
  setPhase 4
  writePages P op.bitstream op.offset 0 (pages op.bitstream.length)

/-- R224: `FLASH(bitstream, offset, UNPROTECT, ERASE_FIRST)`; the trigger comes after the session,
and only if nothing raised. -/
def flashWrite (P : Params) (op : FlashWrite) : Engine Unit := do
  refuseIf (op.offset % Config.pageSize ≠ 0) .misaligned
  refuseIf (Config.flashBytes < op.offset + op.bitstream.length) .badAddress
  sessionBegin
  withCleanup (flashBody P op) (sessionEnd P 5)
  setPhase 6
  triggerReconfiguration P

/-- R226: `READ_FLASH(length, offset)`. -/
def readFlash (P : Params) (offset length : Nat) : Engine (List Byte) := do
  refuseIf (Config.flashBytes < offset + length) .badAddress
  sessionBegin
  withCleanup (do
    setPhase 1
    enterBackgroundSpi P
    setPhase 2
    readPages P offset length 0 (pages length)) (sessionEnd P 3)

/-! ### The commands, at any parameters and at the engine's -/

def readFlashIdCommand (P : Params) (f : HostFields) : Engine (List Byte) := do
  takeOperands (noOperands f)
  readFlashId P

/-- `READ_FLASH_ID`, R221. -/
def execReadFlashId (f : HostFields) (s : State) : Host.Outcome State Fault Refusal :=
  ownedCommand opReadFlashId (readFlashIdCommand Config.params f) s

def readFlashUidCommand (P : Params) (f : HostFields) : Engine (List Byte) := do
  takeOperands (noOperands f)
  readFlashUid P

/-- `READ_FLASH_UID`, R222. -/
def execReadFlashUid (f : HostFields) (s : State) : Host.Outcome State Fault Refusal :=
  ownedCommand opReadFlashUid (readFlashUidCommand Config.params f) s

def eraseFlashCommand (P : Params) (f : HostFields) : Engine (List Byte) := do
  takeOperands (noOperands f)
  eraseFlash P
  pure []

/-- `ERASE_FLASH`, R223. -/
def execEraseFlash (f : HostFields) (s : State) : Host.Outcome State Fault Refusal :=
  ownedCommand opEraseFlash (eraseFlashCommand Config.params f) s

def flashCommand (P : Params) (f : HostFields) : Engine (List Byte) := do
  let op ← takeOperands (flashOperands f)
  flashWrite P op
  pure []

/-- `FLASH`, R224. -/
def execFlash (f : HostFields) (s : State) : Host.Outcome State Fault Refusal :=
  ownedCommand opFlash (flashCommand Config.params f) s

def readFlashCommand (P : Params) (f : HostFields) : Engine (List Byte) := do
  let op ← takeOperands (readFlashOperands f)
  readFlash P op.1 op.2

/-- `READ_FLASH`, R226. -/
def execReadFlash (f : HostFields) (s : State) : Host.Outcome State Fault Refusal :=
  ownedCommand opReadFlash (readFlashCommand Config.params f) s

end Sys2Proof.Machine
end

