-- ==== Sys2Proof/Machine/FlashCommands.lean ====
section
/-! DEFINITION. The 8 flash command rows of spec/opcode_table.json: each is one background-SPI
transaction (spec/44_spi_bridge_flash.md R217) of the row's frame in spec/30_encoding.md R94, and
its result is the response bytes that R94 says are used (log 3, log 5). -/

namespace Sys2Proof.Machine

/-- `FL_JEDEC_ID`: R94, R221. -/
def execFlJedecId (s : State) : Host.Outcome State Fault Refusal :=
  issuedCommand (do
    let response ← bgSpiTransfer (jedecFrame Config.params)
    pure (jedecBytes response)) s

/-- `FL_WRITE_ENABLE`: R94, R220. -/
def execFlWriteEnable (s : State) : Host.Outcome State Fault Refusal :=
  issuedCommand (do
    let _ ← bgSpiTransfer [Config.params.flWriteEnable]
    pure []) s

/-- `FL_CHIP_ERASE`: R94, R223. -/
def execFlChipErase (s : State) : Host.Outcome State Fault Refusal :=
  issuedCommand (do
    let _ ← bgSpiTransfer [Config.params.flChipErase]
    pure []) s

/-- `FL_WRITE_PAGE`: R94, R224. -/
def execFlWritePage (addr : BitVec 24) (data : List Byte) (s : State) :
    Host.Outcome State Fault Refusal :=
  issuedCommand (do
    let _ ← bgSpiTransfer (writePageFrame Config.params addr.toNat data)
    pure []) s

/-- `FL_READ_PAGE`: R94, R226. -/
def execFlReadPage (addr : BitVec 24) (count : Nat) (s : State) :
    Host.Outcome State Fault Refusal :=
  issuedCommand (do
    let response ← bgSpiTransfer (readPageFrame Config.params addr.toNat count)
    pure (pageData response)) s

/-- `FL_READ_STATUS`: R94, R218. -/
def execFlReadStatus (s : State) : Host.Outcome State Fault Refusal :=
  issuedCommand (do
    let status ← flashStatus Config.params
    pure [status]) s

/-- `FL_WRITE_STATUS`: R94, the protection clear of R224. -/
def execFlWriteStatus (s : State) : Host.Outcome State Fault Refusal :=
  issuedCommand (do
    let _ ← bgSpiTransfer (writeStatusFrame Config.params)
    pure []) s

/-- `FL_READ_UID`: R94, R222. -/
def execFlReadUid (s : State) : Host.Outcome State Fault Refusal :=
  issuedCommand (do
    let response ← bgSpiTransfer (readUidFrame Config.params)
    pure (uidBytes response)) s

end Sys2Proof.Machine
end

