-- ==== Sys2Proof/Machine/RegisterFramer.lean ====
section
/-! DEFINITION. RAF, spec/42_register_framer.md: width detection and register transactions. -/

namespace Sys2Proof.Machine

/-- R172: `PROBE_WIDTH(opc)`. -/
def probeWidth (opc : Byte) : Engine (Option Nat) := do
  let _ ← shiftInstruction opc.toNat Config.irLen .irPause
  let r ← shiftData none Config.probeLen .drPause
  pure (leadingOnes r)

/-- R171, R26: a usable width is found, not zero and a multiple of 8. -/
def requireWidth (width : Option Nat) : Engine Nat :=
  match width with
  | some w =>
    if w = 0 ∨ w % 8 ≠ 0 then raise (.configurationMismatch .badWidth) else pure w
  | none => raise (.configurationMismatch .badWidth)

/-- R171: the measurement: the data width first, and nothing written unless both are usable. -/
def measureWidths (P : Params) : Engine (Nat × Nat) := do
  tapReset
  let dataProbe ← probeWidth P.opcMetaDr
  let dw ← requireWidth dataProbe
  let addressProbe ← probeWidth P.opcMetaIr
  let iw ← requireWidth addressProbe
  update fun s => { s with rafIw := iw, rafDw := dw, rafValid := true }
  pure (iw, dw)

/-- R171: `DETECT_WIDTHS()`; with a valid cache it makes no tick. -/
def detectWidths (P : Params) : Engine (Nat × Nat) := do
  let valid ← observe State.rafValid
  if valid then observe (fun s => (s.rafIw, s.rafDw)) else measureWidths P

/-- R88: the address word: the write flag is its most significant bit. -/
def addressWord (iw : Nat) (isWrite : Bool) (address : Nat) : Nat :=
  isWrite.toNat * 2 ^ (iw - 1) + address

/-- R173: one half of a transaction: a meta instruction, then its data register. -/
def metaShift (opc : Byte) (word : BitVector) : Engine BitVector := do
  let _ ← shiftInstruction opc.toNat Config.irLen .irPause
  shiftData (some word) word.len .drPause

/-- R173: `REG_TRANSACTION(address, is_write, value)`. -/
def regTransaction (P : Params) (address : Nat) (isWrite : Bool) (value : Nat) : Engine Nat := do
  let widths ← detectWidths P
  refuseIf (2 ^ (widths.1 - 1) ≤ address) .badAddress
  refuseIf (2 ^ widths.2 ≤ value) .badValue
  let _ ← metaShift P.opcMetaIr (fromInt (addressWord widths.1 isWrite address) widths.1)
  let r ← metaShift P.opcMetaDr (fromInt value widths.2)
  runTest P.nRegIdle .idle
  pure (toInt r)

/-- R83, R85: the value a payload carries must have `raf.dw / 8` bytes; an empty one means 0 where
the operation allows it. The check needs the width, so it follows detection (R173, log 17). -/
def payloadValue (dw : Nat) (emptyIsZero : Bool) (payload : List Byte) : Operand Nat :=
  operandIf (payload.length = dw / 8 || (emptyIsZero && payload = [])) (fromBe payload)

/-- R83: `be_k(result)`, `k = raf.dw / 8`. -/
def resultBytes (dw result : Nat) : List Byte := beBytes (dw / 8) result

/-- A register transaction with its value in a payload; answers the data width and the result. -/
def regExchange (P : Params) (address : Nat) (isWrite emptyIsZero : Bool) (payload : List Byte) :
    Engine (Nat × Nat) := do
  let widths ← detectWidths P
  let value ← takeOperands (payloadValue widths.2 emptyIsZero payload)
  let result ← regTransaction P address isWrite value
  pure (widths.2, result)

/-! ### The commands, at any parameters and at the engine's -/

def detectWidthsCommand (P : Params) (f : HostFields) : Engine (List Byte) := do
  takeOperands (noOperands f)
  let widths ← detectWidths P
  pure (beBytes 4 widths.1 ++ beBytes 4 widths.2)

/-- `DETECT_WIDTHS`, R171. -/
def execDetectWidths (f : HostFields) (s : State) : Host.Outcome State Fault Refusal :=
  ownedCommand opDetectWidths (detectWidthsCommand Config.params f) s

def regTransactionCommand (P : Params) (f : HostFields) : Engine (List Byte) := do
  let op ← takeOperands (regTransactionOperands f)
  let r ← regExchange P op.1 op.2.1 true op.2.2
  pure (resultBytes r.1 r.2)

/-- `REG_TRANSACTION`, R173. -/
def execRegTransaction (f : HostFields) (s : State) : Host.Outcome State Fault Refusal :=
  ownedCommand opRegTransaction (regTransactionCommand Config.params f) s

def regReadCommand (P : Params) (f : HostFields) : Engine (List Byte) := do
  let address ← takeOperands (scalarOperand f)
  let r ← regExchange P address false true []
  pure (resultBytes r.1 r.2)

/-- `REG_READ`, R174. -/
def execRegRead (f : HostFields) (s : State) : Host.Outcome State Fault Refusal :=
  ownedCommand opRegRead (regReadCommand Config.params f) s

def regWriteCommand (P : Params) (f : HostFields) : Engine (List Byte) := do
  let op ← takeOperands (regWriteOperands f)
  let _ ← regExchange P op.1 true false op.2
  pure []

/-- `REG_WRITE`, R175. -/
def execRegWrite (f : HostFields) (s : State) : Host.Outcome State Fault Refusal :=
  ownedCommand opRegWrite (regWriteCommand Config.params f) s

end Sys2Proof.Machine
end

