-- ==== Sys2Proof/Machine/SpiDebug.lean ====
section
/-! DEFINITION. SPIB, debug half, spec/45_spi_debug.md: the SPI transfer, tunneled and direct, and
the register exchange over it. -/

namespace Sys2Proof.Machine

/-- R24: `tap.bitbang`. -/
def setBitbang (enable : Bool) : Engine Unit := update fun s => { s with tapBitbang := enable }

/-- R246: the tunneled transfer: the instruction, then bit-bang on, the data shift, and bit-bang
off on every path (R266). The rule's example counts 3 + 8 + 2 ticks for the data shift of one byte;
its pseudocode, on R144's path from IRPAUSE, makes 5 + 8 + 2, which is followed (log 27). -/
def spiTunneled (P : Params) (data : List Byte) : Engine (List Byte) := do
  let _ ← shiftInstruction P.opcSpiDebug.toNat Config.irLen .irPause
  setBitbang true
  let r ← withCleanup (shiftData (some (toWire data)) (8 * data.length) .idle)
    (fun _ => setBitbang false)
  pure (fromWire r)

/-- R246, R247: `SPI_TRANSFER(data, invert_cs)`. Only the direct variant has a chip select to
invert (R252). -/
def spiTransfer (P : Params) (data : List Byte) (invertCs : Bool) : Engine (List Byte) := do
  refuseIf data.isEmpty .badLength
  match P.spiVariant with
  | .tunneled => spiTunneled P data
  | .direct => spiDirect invertCs data

/-- R95: `is_write * 0x80 + address`, the address word of the debug register frame. -/
def spiAddressWord (P : Params) (isWrite : Bool) (address : Nat) : Nat :=
  isWrite.toNat * 2 ^ (P.spiRegAddrBits - 1) + address

/-- R95: the debug register frame: the write flag and the address, then the value big-endian, each
in the bytes of its width. -/
def spiRegFrame (P : Params) (address : Nat) (isWrite : Bool) (value : Word32) : List Byte :=
  beBytes (packedLength P.spiRegAddrBits) (spiAddressWord P isWrite address)
    ++ beBytes (packedLength P.spiRegValueBits) value.toNat

/-- R95: the result bytes of the exchange, those of the value: `in[1:5]` at the decided widths. -/
def spiRegResult (P : Params) (response : List Byte) : List Byte :=
  (response.drop (packedLength P.spiRegAddrBits)).take (packedLength P.spiRegValueBits)

/-- R249: `SPI_REG_TRANSACTION(address, is_write, value)`; the result as its bytes. At the decided
width every 32-bit value fits; at a smaller one a value that does not is refused (R135). -/
def spiRegTransaction (P : Params) (address : Nat) (isWrite : Bool) (value : Word32) :
    Engine (List Byte) := do
  refuseIf (2 ^ (P.spiRegAddrBits - 1) ≤ address) .badAddress
  refuseIf (2 ^ P.spiRegValueBits ≤ value.toNat) .badValue
  let response ← spiTransfer P (spiRegFrame P address isWrite value) false
  pure (spiRegResult P response)

/-! ### The commands, at any parameters and at the engine's -/

def spiTransferCommand (P : Params) (f : HostFields) : Engine (List Byte) := do
  let op ← takeOperands (spiTransferOperands f)
  spiTransfer P op.2 op.1

/-- `SPI_TRANSFER`, R246 and R247. -/
def execSpiTransfer (f : HostFields) (s : State) : Host.Outcome State Fault Refusal :=
  ownedCommand opSpiTransfer (spiTransferCommand Config.params f) s

def spiRegTransactionCommand (P : Params) (f : HostFields) : Engine (List Byte) := do
  let op ← takeOperands (spiRegTransactionOperands f)
  spiRegTransaction P op.1 op.2.1 op.2.2

/-- `SPI_REG_TRANSACTION`, R249. -/
def execSpiRegTransaction (f : HostFields) (s : State) : Host.Outcome State Fault Refusal :=
  ownedCommand opSpiRegTransaction (spiRegTransactionCommand Config.params f) s

def spiRegReadCommand (P : Params) (f : HostFields) : Engine (List Byte) := do
  let address ← takeOperands (scalarOperand f)
  spiRegTransaction P address false 0

/-- `SPI_REG_READ`, R250. -/
def execSpiRegRead (f : HostFields) (s : State) : Host.Outcome State Fault Refusal :=
  ownedCommand opSpiRegRead (spiRegReadCommand Config.params f) s

def spiRegWriteCommand (P : Params) (f : HostFields) : Engine (List Byte) := do
  let op ← takeOperands (spiRegWriteOperands f)
  let _ ← spiRegTransaction P op.1 true op.2
  pure []

/-- `SPI_REG_WRITE`, R251. -/
def execSpiRegWrite (f : HostFields) (s : State) : Host.Outcome State Fault Refusal :=
  ownedCommand opSpiRegWrite (spiRegWriteCommand Config.params f) s

end Sys2Proof.Machine
end

