-- ==== Sys2Proof/Machine/JtagInstructions.lean ====
section
/-! DEFINITION. The 14 JTAG instruction rows of spec/opcode_table.json: each is the micro-operation
of its rule that issues the instruction with the data shift spec/30_encoding.md R86 gives it. The
sequencers issue them inside the host operations; run by themselves they are one command each, on
the issue path of `issuedCommand` (log 3, log 4). -/

namespace Sys2Proof.Machine

/-- `OPC_READ_ID`: `READ_PART_ID`, R194; the id is the result. -/
def execOpcReadId (s : State) : Host.Outcome State Fault Refusal :=
  issuedCommand (do
    let id ← readPartId Config.params
    pure (be4 id)) s

/-- `OPC_LSC_READ_STATUS`: `READ_STATUS`, R187; the status word is the result. -/
def execOpcLscReadStatus (s : State) : Host.Outcome State Fault Refusal :=
  issuedCommand (do
    let status ← readStatus Config.params
    pure (be4 status)) s

/-- `OPC_ISC_ENABLE`: the ISC-enable step of R197 and R199, with its check. -/
def execOpcIscEnable (s : State) : Host.Outcome State Fault Refusal :=
  issuedCommand (do
    iscEnable Config.params
    pure []) s

/-- `OPC_ISC_DISABLE`: as `TEARDOWN` issues it, R196, without a check. -/
def execOpcIscDisable (s : State) : Host.Outcome State Fault Refusal :=
  issuedCommand (do
    iscDisable Config.params none
    pure []) s

/-- `OPC_ISC_ERASE`: the erase command of R197 and R199; the wait is a step of its own. -/
def execOpcIscErase (s : State) : Host.Outcome State Fault Refusal :=
  issuedCommand (do
    iscErase Config.params
    pure []) s

/-- `OPC_LSC_REFRESH`: the `Refresh` form of `RESTART`, R192. -/
def execOpcLscRefresh (s : State) : Host.Outcome State Fault Refusal :=
  issuedCommand (do
    let _ ← execCommand Config.params Config.params.opcLscRefresh none Config.params.nCmdIdle .idle
      none
    pure []) s

/-- `OPC_PRECONF`: `PRECONFIGURE`, R193. -/
def execOpcPreconf (s : State) : Host.Outcome State Fault Refusal :=
  issuedCommand (do
    preconfigure Config.params
    pure []) s

/-- `OPC_LSC_INIT_ADDRESS`: the set-address command of R197. -/
def execOpcLscInitAddress (s : State) : Host.Outcome State Fault Refusal :=
  issuedCommand (do
    initAddress Config.params
    pure []) s

/-- `OPC_LSC_BITSTREAM_BURST`: the burst and its idle ticks, R91, R197. -/
def execOpcLscBitstreamBurst (bitstream : List Byte) (s : State) :
    Host.Outcome State Fault Refusal :=
  issuedCommand (do
    refuseIf bitstream.isEmpty .badLength
    burst Config.params bitstream
    runTest Config.params.nCfgIdle .drPause
    pure []) s

/-- `OPC_LSC_ENTER_BACKGROUND_SPI`: `ENTER_BACKGROUND_SPI`, R216. -/
def execOpcLscEnterBackgroundSpi (s : State) : Host.Outcome State Fault Refusal :=
  issuedCommand (do
    enterBackgroundSpi Config.params
    pure []) s

/-- `OPC_VERIFY_ID`: no rule issues it (R203); shifted, it is an instruction like any other (R53),
ending in IRPAUSE. The captured bits are the result. -/
def execOpcVerifyId (s : State) : Host.Outcome State Fault Refusal :=
  issuedCommand (do
    let r ← shiftInstruction Config.params.opcVerifyId.toNat Config.irLen .irPause
    pure (muxIn .native r)) s

/-- `OPC_META_IR`: the address half of a register transaction, R173, R88. -/
def execOpcMetaIr (word : List Byte) (s : State) : Host.Outcome State Fault Refusal :=
  issuedCommand (do
    refuseIf word.isEmpty .badLength
    let r ← metaShift Config.params.opcMetaIr (fromBytes word .big)
    pure (toBytes r .big)) s

/-- `OPC_META_DR`: the value half of a register transaction, R173, R89; the old value is the
result. -/
def execOpcMetaDr (word : List Byte) (s : State) : Host.Outcome State Fault Refusal :=
  issuedCommand (do
    refuseIf word.isEmpty .badLength
    let r ← metaShift Config.params.opcMetaDr (fromBytes word .big)
    pure (toBytes r .big)) s

/-- `OPC_SPI_DEBUG`: the tunneled transfer, R246. -/
def execOpcSpiDebug (data : List Byte) (s : State) : Host.Outcome State Fault Refusal :=
  issuedCommand (do
    refuseIf data.isEmpty .badLength
    spiTunneled Config.params data) s

end Sys2Proof.Machine
end

