-- ==== Sys2Proof/Machine/Dispatch.lean ====
section
/-! DEFINITION. One arm per command: each is one call of its meaning. -/

namespace Sys2Proof.Machine

def exec (i : Instr) (s : State) : Host.Outcome State Fault Refusal :=
  match i with
  | .acquire f => Sys2Proof.Machine.execAcquire f s
  | .release f => Sys2Proof.Machine.execRelease f s
  | .tapReset f => Sys2Proof.Machine.execTapReset f s
  | .moveToState f => Sys2Proof.Machine.execMoveToState f s
  | .shiftInstruction f => Sys2Proof.Machine.execShiftInstruction f s
  | .shiftData f => Sys2Proof.Machine.execShiftData f s
  | .runTest f => Sys2Proof.Machine.execRunTest f s
  | .enumerate f => Sys2Proof.Machine.execEnumerate f s
  | .forceBitbang f => Sys2Proof.Machine.execForceBitbang f s
  | .playPattern f => Sys2Proof.Machine.execPlayPattern f s
  | .setIndicator f => Sys2Proof.Machine.execSetIndicator f s
  | .detectWidths f => Sys2Proof.Machine.execDetectWidths f s
  | .regTransaction f => Sys2Proof.Machine.execRegTransaction f s
  | .regRead f => Sys2Proof.Machine.execRegRead f s
  | .regWrite f => Sys2Proof.Machine.execRegWrite f s
  | .configure f => Sys2Proof.Machine.execConfigure f s
  | .unconfigure f => Sys2Proof.Machine.execUnconfigure f s
  | .triggerReconfiguration f => Sys2Proof.Machine.execTriggerReconfiguration f s
  | .readFlashId f => Sys2Proof.Machine.execReadFlashId f s
  | .readFlashUid f => Sys2Proof.Machine.execReadFlashUid f s
  | .eraseFlash f => Sys2Proof.Machine.execEraseFlash f s
  | .flash f => Sys2Proof.Machine.execFlash f s
  | .readFlash f => Sys2Proof.Machine.execReadFlash f s
  | .spiTransfer f => Sys2Proof.Machine.execSpiTransfer f s
  | .spiRegTransaction f => Sys2Proof.Machine.execSpiRegTransaction f s
  | .spiRegRead f => Sys2Proof.Machine.execSpiRegRead f s
  | .spiRegWrite f => Sys2Proof.Machine.execSpiRegWrite f s
  | .opcReadId => Sys2Proof.Machine.execOpcReadId s
  | .opcLscReadStatus => Sys2Proof.Machine.execOpcLscReadStatus s
  | .opcIscEnable => Sys2Proof.Machine.execOpcIscEnable s
  | .opcIscDisable => Sys2Proof.Machine.execOpcIscDisable s
  | .opcIscErase => Sys2Proof.Machine.execOpcIscErase s
  | .opcLscRefresh => Sys2Proof.Machine.execOpcLscRefresh s
  | .opcPreconf => Sys2Proof.Machine.execOpcPreconf s
  | .opcLscInitAddress => Sys2Proof.Machine.execOpcLscInitAddress s
  | .opcLscBitstreamBurst bitstream => Sys2Proof.Machine.execOpcLscBitstreamBurst bitstream s
  | .opcLscEnterBackgroundSpi => Sys2Proof.Machine.execOpcLscEnterBackgroundSpi s
  | .opcVerifyId => Sys2Proof.Machine.execOpcVerifyId s
  | .opcMetaIr word => Sys2Proof.Machine.execOpcMetaIr word s
  | .opcMetaDr word => Sys2Proof.Machine.execOpcMetaDr word s
  | .opcSpiDebug data => Sys2Proof.Machine.execOpcSpiDebug data s
  | .flJedecId => Sys2Proof.Machine.execFlJedecId s
  | .flWriteEnable => Sys2Proof.Machine.execFlWriteEnable s
  | .flChipErase => Sys2Proof.Machine.execFlChipErase s
  | .flWritePage addr data => Sys2Proof.Machine.execFlWritePage addr data s
  | .flReadPage addr count => Sys2Proof.Machine.execFlReadPage addr count s
  | .flReadStatus => Sys2Proof.Machine.execFlReadStatus s
  | .flWriteStatus => Sys2Proof.Machine.execFlWriteStatus s
  | .flReadUid => Sys2Proof.Machine.execFlReadUid s

end Sys2Proof.Machine
end

