-- ==== Sys2Proof/Machine/Fetch.lean ====
section
/-! DEFINITION. Taking the frame off the command port and what becomes of a frame that is no
command: spec/30_encoding.md R96, R101, spec/60_exceptions.md R269. -/

namespace Sys2Proof.Machine

/-- The frame of the port, decoded; none where the port is empty. -/
def fetch (s : State) : Option (Except DecodeError Instr) :=
  s.hostCmd.map (decode Config.params)

/-- R96: a host frame that is no command is answered `Refused`, before any owner check (R269). A
wire frame that is no row of the table is not run (log 3). -/
def rejectFrame (e : DecodeError) (s : State) : Host.Outcome State Fault Refusal :=
  match e with
  | .badFrame op => refuseFrame op .badFrame s
  | .unknownOp op => refuseFrame (some op) .unknownOp s
  | .unknownWireOpcode opcode => .refused (.badWireFrame [opcode])
  | .badWireFrame => .refused (.badWireFrame [])

/-- The command port holding a frame: what a host (or the sequencer's issue path) does. -/
def present (frame : CommandFrame) (s : State) : State := { s with hostCmd := some frame }

end Sys2Proof.Machine
end

