-- ==== Sys2Proof/Machine/Step.lean ====
section
/-! DEFINITION. One step of the engine: the command of the port, from its frame to its response
(spec/30_encoding.md R101). -/

namespace Sys2Proof.Machine

/-- One step. Where reset is asserted the engine is reset before it looks at the port (R290); with
nothing on the port it waits (spec/70_reset_and_hazards.md R291). -/
def step (s : State) : Host.Outcome State Fault Refusal :=
  if resetDue s then .next (assertReset s)
  else match fetch s with
  | none => .next s
  | some (.ok i) => exec i s
  | some (.error e) => rejectFrame e s

/-- The state with the frame of a table word on the command port, and nothing else changed. -/
def State.withFetchWord (s : State) (nbits w : Nat) : State := present (tableFrame nbits w) s

end Sys2Proof.Machine
end

