-- ==== Sys2Proof/Safety.lean ====
section
/-! DEFINITION. The terms the claims are stated in: the invariant of spec/10_state.md R39, what a
link must hold for an operation to run to its end, and plans: an operation's normal path written
out as the ticks, events and state writes that its rule gives, each answered by bits of the link.
Nothing here is used by the machine. -/

namespace Sys2Proof.Machine

/-! ### Between two commands -/

/-- R39 (a) to (d), R101: what holds between any two host commands. The last clause keeps the
frames of the model's own issue path out (log 3): they are no host commands. -/
def BetweenCommands (s : State) : Prop :=
  (s.cfgActive = false ∧ s.cfgIsc = false ∧ s.cfgBgspi = false)
  ∧ (s.seqOp = none ∧ s.seqPhase = 0 ∧ s.seqOpcode = 0#8)
  ∧ (s.rafValid = true → 0 < s.rafIw ∧ s.rafIw % 8 = 0 ∧ 0 < s.rafDw ∧ s.rafDw % 8 = 0)
  ∧ (s.tapOwner = false → s.tapBitbang = false ∧ s.rafValid = false)
  ∧ (∀ frame, s.hostCmd = some frame → frame.space = .host)

/-- R38: the engine's elements have their reset values (`raf.iw` and `raf.dw`, which R38 leaves
unspecified, apart). -/
def HasResetValues (s : State) : Prop :=
  s.hostCmd = none ∧ s.hostResp = [] ∧ s.tapState = .reset ∧ s.tapOwner = false
  ∧ s.tapBitbang = false ∧ s.shOut = ⟨0, 0⟩ ∧ s.shIn = ⟨0, 0⟩ ∧ s.rafValid = false
  ∧ s.cfgActive = false ∧ s.cfgIsc = false ∧ s.cfgBgspi = false ∧ s.cfgPartId = none
  ∧ s.indPattern = Config.params.indIdle
  ∧ s.seqOp = none ∧ s.seqPhase = 0 ∧ s.seqOpcode = 0#8
  ∧ s.errLast = none ∧ s.ghostIr = none ∧ s.ghostDrDefined = false

/-- R290: the state with these assertions of reset still to come (log 26). -/
def withResets (resets : List Nat) (s : State) : State := { s with resets := resets }

/-- The operation code a record of this command carries: byte 0 of a host frame (R101), none for
a row of the wire tables (log 3). -/
def operationCode (i : Instr) : Option Byte :=
  if (encode Config.params i).space = .host then (encode Config.params i).bytes.head? else none

/-- The record of a refusal made before anything ran (R101, R267). -/
def refusal (op : Option Byte) (d : RefusedDetail) : ErrorRecord where
  kind := .refused
  detail := refusedCode d
  op := op
  phase := 0
  opcode := 0#8
  errcode := 0
  status := 0

/-- A host frame whose operand fields are all zero or empty (R83). -/
def noFields : HostFields := ⟨0#8, 0#32, 0#32, []⟩

/-- R83: which bits of a host frame's fields an operation defines. -/
structure FieldUse where
  flags : Byte
  a : Word32
  b : Word32
  payload : Bool
  deriving DecidableEq, Repr

/-- R83: a field the operation does not define is not zero, or not empty. -/
def FieldUse.violatedBy (u : FieldUse) (f : HostFields) : Prop :=
  f.flags &&& ~~~u.flags ≠ 0#8 ∨ f.a &&& ~~~u.a ≠ 0#32 ∨ f.b &&& ~~~u.b ≠ 0#32
  ∨ (u.payload = false ∧ f.payload ≠ [])

/-- R83's table: the fields of a host command, and the bits its operation defines; none for a row
of the wire tables. -/
def fieldUse (i : Instr) : Option (HostFields × FieldUse) :=
  let all := 0xFFFFFFFF#32
  match i with
  | .acquire f => some (f, ⟨0x00#8, 0#32, 0#32, false⟩)
  | .release f => some (f, ⟨0x00#8, 0#32, 0#32, false⟩)
  | .tapReset f => some (f, ⟨0x00#8, 0#32, 0#32, false⟩)
  | .moveToState f => some (f, ⟨0x00#8, 0xF#32, 0#32, false⟩)
  | .shiftInstruction f => some (f, ⟨0x0F#8, all, 0#32, true⟩)
  | .shiftData f => some (f, ⟨0x3F#8, all, 0#32, true⟩)
  | .runTest f => some (f, ⟨0x0F#8, all, 0#32, false⟩)
  | .enumerate f => some (f, ⟨0x00#8, 0#32, 0#32, false⟩)
  | .forceBitbang f => some (f, ⟨0x01#8, 0#32, 0#32, false⟩)
  | .playPattern f => some (f, ⟨0x00#8, 0#32, 0#32, true⟩)
  | .setIndicator f => some (f, ⟨0x00#8, all, 0#32, false⟩)
  | .detectWidths f => some (f, ⟨0x00#8, 0#32, 0#32, false⟩)
  | .regTransaction f => some (f, ⟨0x01#8, all, 0#32, true⟩)
  | .regRead f => some (f, ⟨0x00#8, all, 0#32, false⟩)
  | .regWrite f => some (f, ⟨0x00#8, all, 0#32, true⟩)
  | .configure f => some (f, ⟨0x00#8, 0#32, 0#32, true⟩)
  | .unconfigure f => some (f, ⟨0x00#8, 0#32, 0#32, false⟩)
  | .triggerReconfiguration f => some (f, ⟨0x00#8, 0#32, 0#32, false⟩)
  | .readFlashId f => some (f, ⟨0x00#8, 0#32, 0#32, false⟩)
  | .readFlashUid f => some (f, ⟨0x00#8, 0#32, 0#32, false⟩)
  | .eraseFlash f => some (f, ⟨0x00#8, 0#32, 0#32, false⟩)
  | .flash f => some (f, ⟨0x03#8, all, 0#32, true⟩)
  | .readFlash f => some (f, ⟨0x00#8, all, all, false⟩)
  | .spiTransfer f => some (f, ⟨0x01#8, 0#32, 0#32, true⟩)
  | .spiRegTransaction f => some (f, ⟨0x01#8, all, all, false⟩)
  | .spiRegRead f => some (f, ⟨0x00#8, all, 0#32, false⟩)
  | .spiRegWrite f => some (f, ⟨0x00#8, all, all, false⟩)
  | .opcReadId | .opcLscReadStatus | .opcIscEnable | .opcIscDisable | .opcIscErase
  | .opcLscRefresh | .opcPreconf | .opcLscInitAddress | .opcLscBitstreamBurst _
  | .opcLscEnterBackgroundSpi | .opcVerifyId | .opcMetaIr _ | .opcMetaDr _ | .opcSpiDebug _
  | .flJedecId | .flWriteEnable | .flChipErase | .flWritePage _ _ | .flReadPage _ _
  | .flReadStatus | .flWriteStatus | .flReadUid => none

/-! ### Ticks -/

/-- TMS and TDI of one tick. -/
abbrev Pins := Bool × Bool

/-- R144, R145: the ticks of a move; TDI is 0. -/
def movePins (source target : TapState) : List Pins :=
  (path source target).map fun tms => (tms, false)

/-- R147: the ticks that shift bits out; the last has TMS = 1 where the shift state is left. -/
def shiftPins (leave : Bool) : List Bool → List Pins
  | [] => []
  | b :: rest => (leave && rest.isEmpty, b) :: shiftPins leave rest

/-- R150: ticks that hold a state: TMS = 0, TDI = 0. -/
def idlePins (cycles : Nat) : List Pins := List.replicate cycles (false, false)

/-- The state after ticks that the link answers with the bits `tdo`. -/
def ticked (pins : List Pins) (tdo : List Bool) (s : State) : State :=
  { s with
    tapState := walkState s.tapState (pins.map Prod.fst)
    trace := (List.zipWith (fun p b => Event.tick p.1 p.2 b s.tapBitbang) pins tdo).reverse ++ s.trace
    link := s.link.drop pins.length
    linkCount := s.linkCount + pins.length }

/-- The bits a link gives over one register shift (R147): on the way to the shift state, on the
shift ticks, and on the way to the state after. -/
structure Scan where
  enter : List Bool
  word : List Bool
  leave : List Bool
  deriving DecidableEq, Repr, Inhabited

/-- All bits of a scan, in time order. -/
def Scan.tdo (c : Scan) : List Bool := c.enter ++ c.word ++ c.leave

/-- R147: where the last shift tick leaves the TAP. -/
def shiftExit (shiftState stateAfter : TapState) : TapState :=
  if stateAfter = shiftState then shiftState else nextState shiftState true

/-- A scan has as many bits as the ticks of a shift of `len` bits, of which there is at least one. -/
def Scan.fits (c : Scan) (source shiftState : TapState) (len : Nat) (stateAfter : TapState) : Prop :=
  0 < len
  ∧ c.enter.length = (path source shiftState).length
  ∧ c.word.length = len
  ∧ c.leave.length = (path (shiftExit shiftState stateAfter) stateAfter).length

/-- R147: the ticks of a register shift. -/
def scanPins (source shiftState : TapState) (v : BitVector) (stateAfter : TapState) : List Pins :=
  movePins source shiftState
  ++ shiftPins (stateAfter ≠ shiftState) (bitsOf v)
  ++ movePins (shiftExit shiftState stateAfter) stateAfter

/-- R147: the state after a register shift. -/
def scanned (shiftState : TapState) (v : BitVector) (stateAfter : TapState) (c : Scan) (s : State) :
    State :=
  { ticked (scanPins s.tapState shiftState v stateAfter) c.tdo s with
    shOut := v
    shIn := ofBits c.word }

/-- The 32-bit word of a scan of 32 bits, bit 0 first (R90, R151). -/
def Scan.word32 (c : Scan) : Word32 := BitVec.ofNat 32 (valueOfBits c.word)

/-- The bytes of a scan in wire order, R132. -/
def Scan.wireBytes (c : Scan) : List Byte := fromWire (ofBits c.word)

/-! ### Plans -/

/-- One step of an operation's normal path. -/
inductive Act where
  /-- R145: a move. -/
  | move (target : TapState) (tdo : List Bool)
  /-- R146: the five ticks of a TAP reset. -/
  | reset (tdo : List Bool)
  /-- R148: an instruction shift. -/
  | instruction (opcode length : Nat) (stateAfter : TapState) (c : Scan)
  /-- R149: a data shift. -/
  | data (v : BitVector) (stateAfter : TapState) (c : Scan)
  /-- R150: run-test ticks. -/
  | run (cycles : Nat) (runState : TapState) (tdo : List Bool)
  /-- R30: `seq.phase`. -/
  | phase (p : Nat)
  /-- R30: `seq.opcode`. -/
  | opcode (b : Byte)
  /-- R195: session begin. -/
  | session
  /-- R196: the three flags a teardown clears. -/
  | closeSession
  /-- R28: `cfg.isc`. -/
  | isc (b : Bool)
  /-- R216: `cfg.bgspi` set. -/
  | bgspi
  /-- R194: `cfg.part_id` captured. -/
  | partId (id : Word32)
  /-- R171: the widths, all three elements. -/
  | widths (iw dw : Nat)
  /-- R24: `tap.bitbang`. -/
  | bitbang (b : Bool)
  /-- R283, R29: the sink written, and `ind.pattern`. -/
  | indicator (p : Nat)
  /-- R281. -/
  | delay (t : Nat)
  /-- R280. -/
  | clockRead
  /-- R284. -/
  | programPulse
  /-- R268. -/
  | warn (w : Warning)
  deriving DecidableEq, Repr

/-- What a step does to the state. -/
def Act.apply (a : Act) (s : State) : State :=
  match a with
  | .move target tdo => ticked (movePins s.tapState target) tdo s
  | .reset tdo =>
    { ticked (List.replicate 5 (true, false)) tdo s with
      tapState := .reset, ghostIr := none, ghostDrDefined := false }
  | .instruction opc length stateAfter c =>
    { scanned .shiftIr ⟨length, opc⟩ stateAfter c s with
      ghostIr := some ⟨length, opc⟩, ghostDrDefined := false }
  | .data v stateAfter c => { scanned .shiftDr v stateAfter c s with ghostDrDefined := true }
  | .run cycles runState tdo => ticked (movePins s.tapState runState ++ idlePins cycles) tdo s
  | .phase p => { s with seqPhase := p }
  | .opcode b => { s with seqOpcode := b }
  | .session => { s with cfgActive := true, cfgIsc := false, cfgBgspi := false, cfgPartId := none }
  | .closeSession => { s with cfgActive := false, cfgIsc := false, cfgBgspi := false }
  | .isc b => { s with cfgIsc := b }
  | .bgspi => { s with cfgBgspi := true }
  | .partId id => { s with cfgPartId := some id }
  | .widths iw dw => { s with rafIw := iw, rafDw := dw, rafValid := true }
  | .bitbang b => { s with tapBitbang := b }
  | .indicator p => { s with trace := .indicator p :: s.trace, indPattern := p }
  | .delay t => { s with trace := .delay t :: s.trace, time := s.time + t }
  | .clockRead =>
    { s with
      trace := .clockRead (s.time + clockAdvance s) :: s.trace
      time := s.time + clockAdvance s
      clock := s.clock.tail
      clockCount := s.clockCount + 1 }
  | .programPulse => { s with trace := .programPulse :: s.trace }
  | .warn w => { s with trace := .warn w :: s.trace }

/-- The TAP state a step leads to. -/
def Act.tapAfter (a : Act) (t : TapState) : TapState :=
  match a with
  | .move target _ => target
  | .reset _ => .reset
  | .instruction _ _ stateAfter _ => stateAfter
  | .data _ stateAfter _ => stateAfter
  | .run _ runState _ => runState
  | _ => t

/-- The link bits a step takes. -/
def Act.tdo (a : Act) : List Bool :=
  match a with
  | .move _ tdo => tdo
  | .reset tdo => tdo
  | .instruction _ _ _ c => c.tdo
  | .data _ _ c => c.tdo
  | .run _ _ tdo => tdo
  | _ => []

/-- A step has as many link bits as it makes ticks, from a TAP state on. -/
def Act.fits (a : Act) (t : TapState) : Prop :=
  match a with
  | .move target tdo => tdo.length = (path t target).length
  | .reset tdo => tdo.length = 5
  | .instruction _ length stateAfter c => c.fits t .shiftIr length stateAfter
  | .data v stateAfter c => c.fits t .shiftDr v.len stateAfter
  | .run cycles runState tdo =>
    isRunState runState = true ∧ tdo.length = (path t runState).length + cycles
  | _ => True

/-- Each step of a plan has its bits, from a TAP state on. -/
def planFits : List Act → TapState → Prop
  | [], _ => True
  | a :: rest, t => a.fits t ∧ planFits rest (a.tapAfter t)

/-- All link bits of a plan, in time order. -/
def planTdo (plan : List Act) : List Bool := plan.flatMap Act.tdo

/-- The next answers of the link are these bits, and reset is not asserted (R290). -/
def Supplies (s : State) (tdo : List Bool) : Prop :=
  s.resets = [] ∧ tdo.map LinkAnswer.bit <+: s.link

/-- The link holds exactly a plan's bits next, each step has as many as it makes ticks, and reset is
not asserted. -/
def Ready (plan : List Act) (s : State) : Prop :=
  planFits plan s.tapState ∧ Supplies s (planTdo plan)

/-- The state after a plan. -/
def performed (plan : List Act) (s : State) : State := plan.foldl (fun s a => a.apply s) s

/-! ### Plans of the micro-operations -/

/-- The link bits of an instruction shift and its data shift. -/
structure ScanPair where
  instruction : Scan
  data : Scan
  deriving DecidableEq, Repr, Inhabited

/-- `READ_STATUS`, R187. -/
def statusPlan (P : Params) (c : ScanPair) : List Act :=
  [.opcode P.opcLscReadStatus,
    .instruction P.opcLscReadStatus.toNat 8 .irPause c.instruction,
    .data (ones 32) .idle c.data]

/-- `VALIDATE_STATUS` where it raises nothing, R190: the warnings it emits. -/
def validatePlan (P : Params) (status : Word32) (check : StatusCheck) : List Act :=
  (if (decodeStatus P status).spiFail then [.warn (.spiFail status)] else [])
  ++ (if check.continueAnyway then
        (violations (decodeStatus P status) check.requireDone check.requireIsc).map
          fun v => .warn (.statusViolation v status)
      else [])

/-- R190: a status check raises nothing: there is no violation, or the site continues anyway. -/
def passes (P : Params) (status : Word32) (check : StatusCheck) : Prop :=
  check.continueAnyway = true
  ∨ violations (decodeStatus P status) check.requireDone check.requireIsc = []

/-- A status read and judged. -/
def checkPlan (P : Params) (check : StatusCheck) (c : ScanPair) : List Act :=
  statusPlan P c ++ validatePlan P c.data.word32 check

/-- The link bits of an ECP5 command: its instruction, its operand and its idle ticks (R186). -/
structure CommandScans where
  instruction : Scan
  operand : Scan
  idle : List Bool
  deriving DecidableEq, Repr, Inhabited

/-- `EXEC_COMMAND` without a check, R186. -/
def commandPlan (opc : Byte) (operand : Option BitVector) (idle : Nat) (idleState : TapState)
    (c : CommandScans) : List Act :=
  [.opcode opc, .instruction opc.toNat 8 .irPause c.instruction]
  ++ (match operand with
      | none => []
      | some v => [.data v .drPause c.operand])
  ++ [.run idle idleState c.idle]

/-- `WAIT_FOR_COMPLETION` where the first poll finds the device not busy, R191. -/
def waitPlan (P : Params) (c : ScanPair) : List Act := .clockRead :: statusPlan P c

/-- The unsuccessful polls of a poll loop, R282: the poll, the clock read, the sleep, each time. -/
def repeatedPolls {α : Type} (P : Params) (poll : α → List Act) (polls : List α) : List Act :=
  polls.flatMap fun c => poll c ++ [.clockRead, .delay P.tPollSleep]

/-- The busy polls of a wait for the device, R191. -/
def busyPolls (P : Params) (polls : List ScanPair) : List Act :=
  repeatedPolls P (statusPlan P) polls

/-- R46, R282: how far past the start of a loop its clock read `k` is, where the clock moves by
`advances` before each read and by a sleep after each earlier one. -/
def readTime (P : Params) (advances : List Nat) (k : Nat) : Nat :=
  (advances.take (k + 1)).sum + k * P.tPollSleep

/-- `RESTART`, R192, in either form. -/
def restartPlan (P : Params) (c : CommandScans) : List Act :=
  match P.restartMode with
  | .refresh => commandPlan P.opcLscRefresh none P.nCmdIdle .idle c
  | .programPin => [.programPulse]

/-- `READ_PART_ID`, R194, of a device that is there. -/
def partIdPlan (P : Params) (c : ScanPair) : List Act :=
  [.opcode P.opcReadId,
    .instruction P.opcReadId.toNat 8 .irPause c.instruction,
    .data (ones 32) .idle c.data,
    .partId c.data.word32]

/-- `ISC_ENABLE` with its check, R197. -/
def iscEnablePlan (P : Params) (c : CommandScans) (status : ScanPair) : List Act :=
  .isc true :: commandPlan P.opcIscEnable (some P.opdIscEnable) P.nCmdIdle .idle c
  ++ checkPlan P ⟨false, true, false⟩ status

/-- `ISC_ERASE`, R197. -/
def iscErasePlan (P : Params) (c : CommandScans) : List Act :=
  commandPlan P.opcIscErase (some P.opdIscErase) P.nCmdIdle .idle c

/-- `ISC_DISABLE` without a check, R196. -/
def iscDisablePlan (P : Params) (c : CommandScans) : List Act :=
  .isc false :: commandPlan P.opcIscDisable none P.nCmdIdle .idle c

/-- `PRECONFIGURE`, R193. -/
def preconfigurePlan (P : Params) (c : CommandScans) : List Act :=
  commandPlan P.opcPreconf (some P.opdPreconf) P.nCmdIdle .idle c

/-- `LSC_INIT_ADDRESS`, R197. -/
def initAddressPlan (P : Params) (c : CommandScans) : List Act :=
  commandPlan P.opcLscInitAddress (some P.opdInitAddress) P.nCmdIdle .idle c

/-- The burst of a bitstream, R91, R197. -/
def burstPlan (P : Params) (bitstream : List Byte) (c : ScanPair) : List Act :=
  [.opcode P.opcLscBitstreamBurst,
    .instruction P.opcLscBitstreamBurst.toNat 8 .irPause c.instruction,
    .data (toWire bitstream) .drPause c.data]

/-- The erase step, R197 phase 5: the erase, the wait (ready at the first poll), the logged check. -/
def erasePlan (P : Params) (erase : CommandScans) (poll check : ScanPair) : List Act :=
  iscErasePlan P erase ++ waitPlan P poll ++ checkPlan P ⟨false, false, true⟩ check

/-- `ENTER_BACKGROUND_SPI`, R216. -/
def backgroundSpiPlan (P : Params) (c : CommandScans) : List Act :=
  commandPlan P.opcLscEnterBackgroundSpi (some P.opdBgspiUnlock) P.nCmdIdle .idle c ++ [.bgspi]

/-- `BG_SPI_TRANSFER`, R217. -/
def transferPlan (out : List Byte) (c : Scan) : List Act :=
  [.opcode (out.headD 0#8), .data (toWire out) .idle c]

/-- The end of a session in IDLE where ISC is not active, R196: the move makes no tick. -/
def sessionEndPlan (phase : Nat) : List Act := [.phase phase, .move .idle [], .closeSession]

/-- The flash status byte of a status transaction's response (R218). -/
def Scan.flashStatusByte (c : Scan) : Byte := c.wireBytes.getD 1 0#8

/-- `flash_status()`, R218. -/
def flashStatusPlan (P : Params) (c : Scan) : List Act := transferPlan [P.flReadStatus, 0x00#8] c

/-- The unsuccessful polls of a wait for the flash, R219, R220. -/
def flashPolls (P : Params) (polls : List Scan) : List Act := repeatedPolls P (flashStatusPlan P) polls

/-- The link bits of a modifying flash command: write enable, the status that shows it, the
command, the status that shows it done (R224). -/
structure ModifyScans where
  enable : Scan
  enabled : Scan
  command : Scan
  finished : Scan
  deriving DecidableEq, Repr, Inhabited

/-- R220, ready at the first poll. -/
def writeEnablePlan (P : Params) (c : ModifyScans) : List Act :=
  transferPlan [P.flWriteEnable] c.enable ++ [.clockRead]
  ++ flashStatusPlan P c.enabled

/-- R220 where the wait times out: the command, sent once, the polls, and the clock read past the
deadline. -/
def enableTimeoutPlan (P : Params) (enable : Scan) (early : List Scan) (last : Scan) : List Act :=
  transferPlan [P.flWriteEnable] enable
  ++ .clockRead :: flashPolls P early ++ flashStatusPlan P last ++ [.clockRead]

/-- The command and the wait for it, R219, ready at the first poll. -/
def modifyPlan (P : Params) (frame : List Byte) (c : ModifyScans) : List Act :=
  transferPlan frame c.command ++ [.clockRead]
  ++ flashStatusPlan P c.finished

/-- The two status bytes say write-enabled and not busy (R36). -/
def ModifyScans.succeeds (P : Params) (c : ModifyScans) : Prop :=
  flashWel P c.enabled.flashStatusByte = true ∧ flashBusy P c.finished.flashStatusByte = false

/-- R94, R225: the write-page frame of page `k` of a bitstream. -/
def pageFrame (P : Params) (bitstream : List Byte) (offset k : Nat) : List Byte :=
  P.flWritePage :: be3 (BitVec.ofNat 24 (offset + k * 256))
    ++ (bitstream.drop (k * 256)).take 256

/-- R224 phase 4: the pages from page `k` on, one `ModifyScans` each. -/
def pagesPlan (P : Params) (bitstream : List Byte) (offset : Nat) : Nat → List ModifyScans → List Act
  | _, [] => []
  | k, c :: rest =>
    writeEnablePlan P c ++ modifyPlan P (pageFrame P bitstream offset k) c
    ++ pagesPlan P bitstream offset (k + 1) rest

/-- R94, R226: the read-page frame of chunk `k`. -/
def chunkFrame (P : Params) (offset length k : Nat) : List Byte :=
  P.flReadPage :: be3 (BitVec.ofNat 24 (offset + k * 256))
    ++ List.replicate (min 256 (length - k * 256)) 0x00#8

/-- R226 phase 2: the chunks from chunk `k` on, one scan each. -/
def chunksPlan (P : Params) (offset length : Nat) : Nat → List Scan → List Act
  | _, [] => []
  | k, c :: rest =>
    transferPlan (chunkFrame P offset length k) c ++ chunksPlan P offset length (k + 1) rest

/-- The tunneled SPI transfer, R246, by its pseudocode (log 27). -/
def tunnelPlan (P : Params) (data : List Byte) (c : ScanPair) : List Act :=
  [.instruction P.opcSpiDebug.toNat 8 .irPause c.instruction, .bitbang true,
    .data (toWire data) .idle c.data, .bitbang false]

/-- R246, R247: the target side is ready for an SPI transfer of `data`: in the tunneled variant
the link holds the plan's bits, in the direct variant the SPI pins hold an answer of its length. -/
def SpiReady (P : Params) (data : List Byte) (c : ScanPair) (received : List Byte) (s : State) :
    Prop :=
  match P.spiVariant with
  | .tunneled => Ready (tunnelPlan P data c) s ∧ received = c.data.wireBytes
  | .direct =>
    s.resets = [] ∧ [SpiAnswer.bytes received] <+: s.spi ∧ received.length = data.length

/-- The state after an SPI transfer of `data` that received `received`. -/
def spiDone (P : Params) (csInverted : Bool) (data : List Byte) (c : ScanPair)
    (received : List Byte) (s : State) : State :=
  match P.spiVariant with
  | .tunneled => performed (tunnelPlan P data c) s
  | .direct =>
    { s with
      trace := .spiDirect csInverted data received :: s.trace
      spi := s.spi.tail
      spiCount := s.spiCount + 1 }

/-- A width probe, R172. -/
def probePlan (opc : Byte) (c : ScanPair) : List Act :=
  [.instruction opc.toNat 8 .irPause c.instruction, .data (ones 256) .drPause c.data]

/-- One half of a register transaction, R173. -/
def metaPlan (opc : Byte) (word : BitVector) (c : ScanPair) : List Act :=
  [.instruction opc.toNat 8 .irPause c.instruction, .data word .drPause c.data]

/-- The link bits of a register transaction. -/
structure RegisterScans where
  address : ScanPair
  value : ScanPair
  idle : List Bool
  deriving DecidableEq, Repr, Inhabited

/-- `REG_TRANSACTION` with known widths, R173, R88. -/
def registerPlan (P : Params) (iw dw address : Nat) (isWrite : Bool) (value : Nat)
    (c : RegisterScans) : List Act :=
  metaPlan P.opcMetaIr ⟨iw, (if isWrite then 2 ^ (iw - 1) else 0) + address⟩ c.address
  ++ metaPlan P.opcMetaDr ⟨dw, value⟩ c.value
  ++ [.run P.nRegIdle .idle c.idle]

/-- `DETECT_WIDTHS` where both widths are usable, R171: the data width first. -/
def detectPlan (P : Params) (reset : List Bool) (data address : ScanPair) (iw dw : Nat) : List Act :=
  .reset reset :: probePlan P.opcMetaDr data ++ probePlan P.opcMetaIr address ++ [.widths iw dw]

/-- R171, R26: a probed width is usable: it was found, is not zero and is a multiple of 8. -/
def usableWidth (c : ScanPair) (w : Nat) : Prop :=
  leadingOnes (ofBits c.data.word) = some w ∧ 0 < w ∧ w % 8 = 0

/-- The link bits of a `CONFIGURE`, phase by phase (R198). -/
structure ConfigureScans where
  partId : ScanPair
  restart : CommandScans
  preconfigure : CommandScans
  iscEnable : CommandScans
  iscEnabled : ScanPair
  erase : CommandScans
  erasePoll : ScanPair
  eraseCheck : ScanPair
  initAddress : CommandScans
  burst : ScanPair
  burstIdle : List Bool
  doneCheck : ScanPair
  iscDisable : CommandScans
  finalCheck : ScanPair
  deriving DecidableEq, Repr, Inhabited

/-- `CONFIGURE` from its session begin to its burst, phases 0 to 6 (R197, R198). -/
def configureStartPlan (P : Params) (bitstream : List Byte) (c : ConfigureScans) : List Act :=
  [.session, .indicator P.indBusy, .phase 1] ++ partIdPlan P c.partId
  ++ .phase 2 :: restartPlan P c.restart ++ [.delay P.tSettle]
  ++ .phase 3 :: preconfigurePlan P c.preconfigure
  ++ .phase 4 :: iscEnablePlan P c.iscEnable c.iscEnabled
  ++ .phase 5 :: erasePlan P c.erase c.erasePoll c.eraseCheck
  ++ .phase 6 :: initAddressPlan P c.initAddress ++ burstPlan P bitstream c.burst

/-- `CONFIGURE` from its idle ticks to the status read that must show `done`, phases 7 and 8. -/
def configureDonePlan (P : Params) (c : ConfigureScans) : List Act :=
  [.phase 7, .run P.nCfgIdle .drPause c.burstIdle, .phase 8]
  ++ checkPlan P ⟨true, false, false⟩ c.doneCheck

/-- The cleanup of `CONFIGURE` in IDLE with ISC not active, phase 10. -/
def configureEndPlan (P : Params) : List Act := sessionEndPlan 10 ++ [.indicator P.indIdle]

/-- `CONFIGURE`, all its phases (R197, R198). -/
def configurePlan (P : Params) (bitstream : List Byte) (c : ConfigureScans) : List Act :=
  configureStartPlan P bitstream c ++ configureDonePlan P c
  ++ .phase 9 :: iscDisablePlan P c.iscDisable ++ checkPlan P ⟨true, false, false⟩ c.finalCheck
  ++ configureEndPlan P

/-- What the status words of the first phases must show: `isc-enable` with no violation, and an
erase that is not busy at the first poll. -/
def ConfigureScans.starts (P : Params) (c : ConfigureScans) : Prop :=
  noDeviceId c.partId.data.word32 = false
  ∧ passes P c.iscEnabled.data.word32 ⟨false, true, false⟩
  ∧ (decodeStatus P c.erasePoll.data.word32).busy = false

/-- What the status words of the last phases must show: `done` with no violation, twice. -/
def ConfigureScans.completes (P : Params) (c : ConfigureScans) : Prop :=
  passes P c.doneCheck.data.word32 ⟨true, false, false⟩
  ∧ passes P c.finalCheck.data.word32 ⟨true, false, false⟩

/-- The link bits of an `UNCONFIGURE` (R199). -/
structure UnconfigureScans where
  restart : CommandScans
  preconfigure : CommandScans
  iscEnable : CommandScans
  iscEnabled : ScanPair
  erase : CommandScans
  erasePoll : ScanPair
  eraseCheck : ScanPair
  iscDisable : CommandScans
  finalCheck : ScanPair
  deriving DecidableEq, Repr, Inhabited

/-- `UNCONFIGURE`, all its phases (R199). -/
def unconfigurePlan (P : Params) (c : UnconfigureScans) : List Act :=
  [.session, .phase 1] ++ restartPlan P c.restart ++ [.delay P.tSettle]
  ++ .phase 2 :: preconfigurePlan P c.preconfigure
  ++ .phase 3 :: iscEnablePlan P c.iscEnable c.iscEnabled
  ++ .phase 4 :: erasePlan P c.erase c.erasePoll c.eraseCheck
  ++ .phase 5 :: iscDisablePlan P c.iscDisable ++ checkPlan P ⟨false, false, false⟩ c.finalCheck
  ++ sessionEndPlan 6

/-- What the status words of an `UNCONFIGURE` must show. -/
def UnconfigureScans.completes (P : Params) (c : UnconfigureScans) : Prop :=
  passes P c.iscEnabled.data.word32 ⟨false, true, false⟩
  ∧ (decodeStatus P c.erasePoll.data.word32).busy = false
  ∧ passes P c.finalCheck.data.word32 ⟨false, false, false⟩

/-- `TRIGGER_RECONFIGURATION`, R200. -/
def triggerPlan (P : Params) (restart : CommandScans) (idle : List Bool) : List Act :=
  restartPlan P restart ++ [.run P.nReconfIdle .idle idle]

/-- A flash operation that is one transaction, R221, R222. -/
def flashReadPlan (P : Params) (frame : List Byte) (enter : CommandScans) (c : Scan) : List Act :=
  [.session, .phase 1] ++ backgroundSpiPlan P enter ++ .phase 2 :: transferPlan frame c
  ++ sessionEndPlan 3

/-- `ERASE_FLASH`, R223. -/
def eraseFlashPlan (P : Params) (enter : CommandScans) (c : ModifyScans) : List Act :=
  [.session, .phase 1] ++ backgroundSpiPlan P enter ++ .phase 2 :: writeEnablePlan P c
  ++ .phase 3 :: modifyPlan P [P.flChipErase] c ++ sessionEndPlan 4

/-- The link bits of a `FLASH` (R224): its optional clear and erase, and one entry a page. -/
structure FlashScans where
  enter : CommandScans
  unprotect : ModifyScans
  erase : ModifyScans
  pages : List ModifyScans
  restart : CommandScans
  idle : List Bool
  deriving DecidableEq, Repr, Inhabited

/-- `FLASH`, all its phases (R224). -/
def flashPlan (P : Params) (unprotect eraseFirst : Bool) (offset : Nat) (bitstream : List Byte)
    (c : FlashScans) : List Act :=
  [.session, .phase 1] ++ backgroundSpiPlan P c.enter
  ++ .phase 2 :: (if unprotect then
      writeEnablePlan P c.unprotect ++ modifyPlan P [P.flWriteStatus, 0x00#8] c.unprotect else [])
  ++ .phase 3 :: (if eraseFirst then
      writeEnablePlan P c.erase ++ modifyPlan P [P.flChipErase] c.erase else [])
  ++ .phase 4 :: pagesPlan P bitstream offset 0 c.pages
  ++ sessionEndPlan 5 ++ .phase 6 :: triggerPlan P c.restart c.idle

/-- What the flash status bytes of a `FLASH` must show, and how many pages there are. -/
def FlashScans.completes (P : Params) (unprotect eraseFirst : Bool) (bitstream : List Byte)
    (c : FlashScans) : Prop :=
  (unprotect = true → c.unprotect.succeeds P) ∧ (eraseFirst = true → c.erase.succeeds P)
  ∧ (∀ page ∈ c.pages, page.succeeds P) ∧ c.pages.length = (bitstream.length + 255) / 256

/-- `READ_FLASH`, all its phases (R226). -/
def readFlashPlan (P : Params) (offset length : Nat) (enter : CommandScans) (chunks : List Scan) :
    List Act :=
  [.session, .phase 1] ++ backgroundSpiPlan P enter ++ .phase 2 :: chunksPlan P offset length 0 chunks
  ++ sessionEndPlan 3

/-- The identity reads of an enumeration, one scan each (R151). -/
def enumeratePlan (words : List Scan) : List Act :=
  words.map fun c => .data (ones 32) .drPause c

/-! ### Whole-machine rules -/

/-- The TMS bits of the ticks among events given in time order. -/
def ticksTms (events : List Event) : List Bool :=
  events.filterMap fun e => match e with
    | .tick tms _ _ _ => some tms
    | _ => none

/-- R83: a host command and a row of the wire tables, told apart. -/
def isHostCommand (i : Instr) : Bool := (fieldUse i).isSome

/-- What no operation's result depends on (R29, R31, R32), and the response of the command before,
put to fixed values. -/
def withoutRecords (s : State) : State :=
  { s with
    ghostIr := none, ghostDrDefined := false, errLast := none, indPattern := 0, hostResp := [] }

end Sys2Proof.Machine
end

