-- ==== Sys2Proof/WellFormed.lean ====
section
/-! DEFINITION. Which commands have an encoding: the sizes the frame layouts of
spec/30_encoding.md admit. (Operand values that a frame can carry and the engine then refuses are
not ill-formed: their refusal is the command's meaning, R96.) -/

namespace Sys2Proof

/-- R80: the payload's length fits the 32-bit field `plen`. -/
def HostFields.encodable (f : HostFields) : Bool := f.payload.length < 2 ^ 32

/-- A data shift moves at least one bit (R60, R96), so at least one byte follows the opcode. -/
def dataPresent (bytes : List Byte) : Bool := !bytes.isEmpty

/-- R94: a page command moves `1 ≤ m ≤ P_PAGE_SIZE` bytes. -/
def pageCount (m : Nat) : Bool := 1 ≤ m && m ≤ Config.pageSize

/-- The command has an encoding. -/
def WellFormed : Instr → Bool
  | .acquire f => f.encodable
  | .release f => f.encodable
  | .tapReset f => f.encodable
  | .moveToState f => f.encodable
  | .shiftInstruction f => f.encodable
  | .shiftData f => f.encodable
  | .runTest f => f.encodable
  | .enumerate f => f.encodable
  | .forceBitbang f => f.encodable
  | .playPattern f => f.encodable
  | .setIndicator f => f.encodable
  | .detectWidths f => f.encodable
  | .regTransaction f => f.encodable
  | .regRead f => f.encodable
  | .regWrite f => f.encodable
  | .configure f => f.encodable
  | .unconfigure f => f.encodable
  | .triggerReconfiguration f => f.encodable
  | .readFlashId f => f.encodable
  | .readFlashUid f => f.encodable
  | .eraseFlash f => f.encodable
  | .flash f => f.encodable
  | .readFlash f => f.encodable
  | .spiTransfer f => f.encodable
  | .spiRegTransaction f => f.encodable
  | .spiRegRead f => f.encodable
  | .spiRegWrite f => f.encodable
  | .opcReadId => true
  | .opcLscReadStatus => true
  | .opcIscEnable => true
  | .opcIscDisable => true
  | .opcIscErase => true
  | .opcLscRefresh => true
  | .opcPreconf => true
  | .opcLscInitAddress => true
  | .opcLscBitstreamBurst bitstream => dataPresent bitstream
  | .opcLscEnterBackgroundSpi => true
  | .opcVerifyId => true
  | .opcMetaIr word => dataPresent word
  | .opcMetaDr word => dataPresent word
  | .opcSpiDebug data => dataPresent data
  | .flJedecId => true
  | .flWriteEnable => true
  | .flChipErase => true
  | .flWritePage _ data => pageCount data.length
  | .flReadPage _ count => pageCount count
  | .flReadStatus => true
  | .flWriteStatus => true
  | .flReadUid => true

end Sys2Proof
end

