-- ==== Sys2Proof/Certificates/Slice0/Obligations.lean ====
section
/-! DEFINITION. The statements for the provers. A response frame is written by `finishCommand`
(returned) or `takeError` (an error), Machine/Ops.lean; a normal path is a plan of Safety.lean. -/

section

open Sys2Proof Sys2Proof.Machine

/-! ### Reset, the command cycle, encodings -/

/-- R38, R290: what reset leaves, at power-up, between two commands and in the middle of one. Between
commands nothing is driven or recorded. A command makes some number of primitive steps; where reset
is asserted after all of them, the command ends as without it; where it is asserted before one of
them, the command stops there, with no response and no cleanup: its events are the first ones of the
command's run without reset. That reset falls between primitive steps is log 26's choice; that every
command ends without reset, so that its steps have a number, rests on `T_POLL_SLEEP` > 0, the model's
choice (log 12). -/
def Obligations.ResetLeavesTableValues : Prop :=
  HasResetValues State.reset
  ∧ (∀ (s : State) (later : List Nat), s.resets = 0 :: later →
    ∃ t, Machine.step s = .next t ∧ HasResetValues t ∧ t.trace = s.trace ∧ t.resets = later
      ∧ t.link = s.link ∧ t.linkCount = s.linkCount ∧ t.spi = s.spi ∧ t.spiCount = s.spiCount
      ∧ t.time = s.time ∧ t.clock = s.clock ∧ t.clockCount = s.clockCount)
  ∧ (∀ (i : Instr) (s : State), s.resets = [] →
    ∃ (steps : Nat) (done : State), exec i s = .next done
      ∧ ∀ (k : Nat) (later : List Nat),
        (steps ≤ k → exec i (withResets (k :: later) s)
          = .next (withResets ((k - steps) :: later) done))
        ∧ (k < steps → ∃ t made missing, exec i (withResets (k :: later) s) = .next t
          ∧ HasResetValues t ∧ t.resets = later
          ∧ t.trace = made ++ s.trace ∧ made.length ≤ k ∧ done.trace = missing ++ t.trace))

/-- R39 holds right after reset. -/
def Obligations.ResetSatisfiesInvariant : Prop := BetweenCommands State.reset

/-- R39, R101: every step from a state between two host commands leads to one. -/
def Obligations.StepKeepsInvariant : Prop :=
  ∀ s t : State, BetweenCommands s → Machine.step s = .next t → BetweenCommands t

/-- R101, R291: where reset is not asserted, a step runs the command that the frame on the port
decodes to; taking the frame off the port and writing the response are part of `exec`. With nothing
on the port the engine waits, and the model's step changes nothing (log 2). -/
def Obligations.StepRunsDecodedCommand : Prop :=
  (∀ (s : State) (frame : CommandFrame) (i : Instr), resetDue s = false →
    s.hostCmd = some frame → decode Config.params frame = .ok i →
    WellFormed i = true ∧ Machine.step s = exec i s)
  ∧ (∀ s : State, resetDue s = false → s.hostCmd = none → Machine.step s = .next s)

/-- R80, R82, R83, R86, R94: words written out from the tables decode to their commands. The last two
are frames of the model's own wire spaces (log 3), and the last rests on `FL_WRITE_PAGE` = 0x02, a
value taken from outside the spec (log 11). -/
def Obligations.DecodedWords : Prop :=
  decode Config.params ⟨.host, [0x01, 0, 0, 0, 0, 0, 0, 0, 0, 0, 0, 0, 0, 0]⟩ = .ok (.acquire noFields)
  ∧ decode Config.params ⟨.host, [0x05, 0x0D, 0, 0, 0, 8, 0, 0, 0, 0, 0, 0, 0, 1, 0xE0]⟩
    = .ok (.shiftInstruction ⟨0x0D#8, 8#32, 0#32, [0xE0#8]⟩)
  ∧ decode Config.params ⟨.host, [0x34, 0, 0, 0, 1, 0, 0, 0, 0, 3, 0, 0, 0, 0]⟩
    = .ok (.readFlash ⟨0#8, 0x100#32, 3#32, []⟩)
  ∧ decode Config.params ⟨.jtag, [0x1C]⟩ = .ok .opcPreconf
  ∧ decode Config.params ⟨.flash, [0x02, 0x00, 0x01, 0x00, 0xA5]⟩
    = .ok (.flWritePage 0x000100#24 [0xA5#8])

/-- R80, R86, R94: decoding an encoded well-formed command gives it back, with every operand. The
one opcode without a value, `OPC_SPI_DEBUG`, takes any value here; where it equals another opcode
its frame is read as that one (log 6), so it is then left out. -/
def Obligations.DecodeOfEncode : Prop :=
  ∀ (spiDebug : Byte) (i : Instr), WellFormed i = true →
    (∀ data, i = .opcSpiDebug data →
      spiDebug ∉ fixedJtagOpcodes Config.params ∧ spiDebug ∉ dataJtagOpcodes Config.params) →
    decode { Config.params with opcSpiDebug := spiDebug }
      (encode { Config.params with opcSpiDebug := spiDebug } i) = .ok i

/-- R80, R83: a host frame has one meaning: what it decodes to encodes to it. -/
def Obligations.EncodeOfDecodedHostFrame : Prop :=
  ∀ (bytes : List Byte) (i : Instr), decode Config.params ⟨.host, bytes⟩ = .ok i →
    encode Config.params i = ⟨.host, bytes⟩

/-- R80: where each field of a host frame lies, and what becomes of a frame of another length. -/
def Obligations.HostFrameLayout : Prop :=
  (∀ (op flags : Byte) (a b : Word32) (payload : List Byte) (command : HostFields → Instr),
    payload.length < 2 ^ 32 → hostOperation op = some command →
    decode Config.params ⟨.host,
      [op, flags] ++ beBytes 4 a.toNat ++ beBytes 4 b.toNat ++ beBytes 4 payload.length ++ payload⟩
      = .ok (command ⟨flags, a, b, payload⟩))
  ∧ (∀ (s : State) (bytes : List Byte), resetDue s = false → s.hostCmd = some ⟨.host, bytes⟩ →
    (bytes.length < 14 ∨ bytes.length ≠ 14 + fromBe ((bytes.drop 10).take 4)) →
    Machine.step s = .next (takeError (refusal bytes.head? .badFrame) s))

/-- R96, R101: a frame of the right length with an operation code outside R82's table is refused,
whether or not a session is open, and its record carries that code. -/
def Obligations.UnknownOperationRefused : Prop :=
  ∀ (s : State) (op : Byte) (bytes : List Byte),
    op ∉ [0x01#8, 0x02#8, 0x03#8, 0x04#8, 0x05#8, 0x06#8, 0x07#8, 0x08#8, 0x09#8, 0x0A#8, 0x0B#8,
      0x10#8, 0x11#8, 0x12#8, 0x13#8, 0x20#8, 0x21#8, 0x22#8, 0x30#8, 0x31#8, 0x32#8, 0x33#8, 0x34#8,
      0x40#8, 0x41#8, 0x42#8, 0x43#8] →
    resetDue s = false → s.hostCmd = some ⟨.host, op :: bytes⟩ → 13 ≤ bytes.length →
    bytes.length = 13 + fromBe ((bytes.drop 9).take 4) →
    Machine.step s = .next (takeError (refusal (some op) .unknownOp) s)

/-- R142: every command but `ACQUIRE` is refused while no session is open, and makes no tick. (For
the rows of the wire tables that is the model's choice, log 3.) -/
def Obligations.ClosedSessionRefused : Prop :=
  ∀ (i : Instr) (s : State), s.tapOwner = false → (∀ f, i ≠ .acquire f) →
    exec i s = .next (takeError (refusal (operationCode i) .notOwner) s)

/-- R83, R85, R269: a field that the operation does not define and that is not zero or empty is
refused, where the session check and the scope check pass; and so is a bit operand of the wrong
length or with a non-zero pad bit, and a `SHIFT_DATA` payload without `TDI_PRESENT`. (How many bytes
a `WIRE_ORDER` payload has where the length is no multiple of 8 is log 16's choice.) -/
def Obligations.UndefinedFieldsRefused : Prop :=
  (∀ (i : Instr) (s : State) (f : HostFields) (u : FieldUse),
    fieldUse i = some (f, u) → u.violatedBy f → (∀ g, i ≠ .playPattern g) →
    (s.tapOwner = true ∧ (∀ g, i ≠ .acquire g) ∨ s.tapOwner = false ∧ (∃ g, i = .acquire g)) →
    exec i s = .next (takeError (refusal (operationCode i) .badOperand) s))
  ∧ (∀ (s : State) (stateAfter : TapState) (length : Word32) (payload : List Byte),
    s.tapOwner = true →
    (payload.length ≠ (length.toNat + 7) / 8 ∨ 2 ^ length.toNat ≤ fromBe payload →
      exec (.shiftInstruction ⟨(stateCode stateAfter).zeroExtend 8, length, 0#32, payload⟩) s
          = .next (takeError (refusal (some 0x05#8) .badOperand) s)
        ∧ exec (.shiftData ⟨0x10#8 ||| (stateCode stateAfter).zeroExtend 8, length, 0#32, payload⟩) s
          = .next (takeError (refusal (some 0x06#8) .badOperand) s))
    ∧ (payload.length ≠ (length.toNat + 7) / 8 →
      exec (.shiftData ⟨0x30#8 ||| (stateCode stateAfter).zeroExtend 8, length, 0#32, payload⟩) s
        = .next (takeError (refusal (some 0x06#8) .badOperand) s))
    ∧ (payload ≠ [] → ∀ order ∈ [0x00#8, 0x20#8],
      exec (.shiftData ⟨order ||| (stateCode stateAfter).zeroExtend 8, length, 0#32, payload⟩) s
        = .next (takeError (refusal (some 0x06#8) .badOperand) s)))

/-- R96: the empty shifts and payloads, in every form of `SHIFT_DATA`, and a `WIRE_ORDER` length that
is no multiple of 8, with and without `TDI_PRESENT`. (With it, how many bytes the payload then has is
log 16's choice.) -/
def Obligations.BadLengthsRefused : Prop :=
  ∀ (s : State), s.tapOwner = true →
    (∀ stateAfter : TapState,
      exec (.shiftInstruction ⟨(stateCode stateAfter).zeroExtend 8, 0#32, 0#32, []⟩) s
        = .next (takeError (refusal (some 0x05#8) .badLength) s))
    ∧ (∀ stateAfter : TapState, ∀ form ∈ [0x00#8, 0x10#8, 0x20#8, 0x30#8],
      exec (.shiftData ⟨form ||| (stateCode stateAfter).zeroExtend 8, 0#32, 0#32, []⟩) s
        = .next (takeError (refusal (some 0x06#8) .badLength) s))
    ∧ (∀ (stateAfter : TapState) (length : Word32), length.toNat % 8 ≠ 0 →
      exec (.shiftData ⟨0x20#8 ||| (stateCode stateAfter).zeroExtend 8, length, 0#32, []⟩) s
          = .next (takeError (refusal (some 0x06#8) .badLength) s)
        ∧ ∀ payload : List Byte, payload.length = (length.toNat + 7) / 8 →
          exec (.shiftData ⟨0x30#8 ||| (stateCode stateAfter).zeroExtend 8, length, 0#32, payload⟩) s
            = .next (takeError (refusal (some 0x06#8) .badLength) s))
    ∧ (∀ invertCs : Bool, exec (.spiTransfer ⟨BitVec.ofNat 8 invertCs.toNat, 0#32, 0#32, []⟩) s
        = .next (takeError (refusal (some 0x40#8) .badLength) s))
    ∧ exec (.configure noFields) s = .next (takeError (refusal (some 0x20#8) .badLength) s)

/-! ### SHDP -/

/-- R129, R130: the laws of the reversals, and the whole reversal as its two steps. -/
def Obligations.ReversalLaws : Prop :=
  (∀ v : BitVector, fits v → bitrevAll (bitrevAll v) = v)
  ∧ (∀ v : BitVector, fits v → v.len % 8 = 0 → byterev (byterev v) = v)
  ∧ (∀ v : BitVector, fits v → v.len % 8 = 0 → bitrevBytes (bitrevBytes v) = v)
  ∧ (∀ v : BitVector, fits v → v.len % 8 = 0 → bitrevAll (byterev v) = byterev (bitrevAll v))
  ∧ (∀ b : List Byte, fromWire (toWire b) = b)
  ∧ (∀ r : BitVector, fits r → r.len % 8 = 0 → toWire (fromWire r) = r)
  ∧ (∀ b : List Byte, bitrevAll (fromBytes b .big) = byterev (bitrevBytes (fromBytes b .big)))

/-- R132: the wire transform puts the most significant bit of byte 0 first, both ways. -/
def Obligations.WireOrderIsBytesFirst : Prop :=
  (∀ b : List Byte, (toWire b).len = 8 * b.length ∧
    ∀ j k : Nat, k < 8 → ∀ h : j < b.length, bitAt (toWire b) (8 * j + k) = b[j].getLsbD (7 - k))
  ∧ (∀ bits : List Bool, bits.length % 8 = 0 →
    (fromWire (ofBits bits)).length = bits.length / 8 ∧
    ∀ (j k : Nat) (h : j < (fromWire (ofBits bits)).length), k < 8 →
      (fromWire (ofBits bits))[j].getLsbD (7 - k) = bits.getD (8 * j + k) false)

/-- R121, R124, R125: `to_bytes` and `from_bytes` undo each other in both byte orders; the laws of
concatenation and slicing. -/
def Obligations.BytesConcatenationSlicing : Prop :=
  (∀ order : ByteOrder, (∀ b : List Byte, toBytes (fromBytes b order) order = b)
    ∧ (∀ v : BitVector, fits v → v.len % 8 = 0 → fromBytes (toBytes v order) order = v))
  ∧ (∀ a b c : BitVector, append (append a b) c = append a (append b c))
  ∧ (∀ v : BitVector, append v ⟨0, 0⟩ = v ∧ append ⟨0, 0⟩ v = v)
  ∧ (∀ x y : List Byte,
    fromBytes (x ++ y) .big = append (fromBytes x .big) (fromBytes y .big))
  ∧ (∀ (v : BitVector) (k : Nat), fits v → 0 < k → k < v.len →
    append (slice v (v.len - 1) k) (slice v (k - 1) 0) = v)

/-- R134: `leading_ones` is the least index of a zero bit, or none. -/
def Obligations.LeadingOnesIsFirstZero : Prop :=
  ∀ v : BitVector,
    (∀ i : Nat, leadingOnes v = some i ↔
      i < v.len ∧ bitAt v i = false ∧ ∀ j < i, bitAt v j = true)
    ∧ (leadingOnes v = none ↔ ∀ i < v.len, bitAt v i = true)

/-! ### TAPC -/

/-- R143: the graph: its table, and what R143 says of it. -/
def Obligations.TapGraphTable : Prop :=
  (nextState .reset false = .idle ∧ nextState .reset true = .reset
    ∧ nextState .idle false = .idle ∧ nextState .idle true = .selectDr
    ∧ nextState .selectDr false = .captureDr ∧ nextState .selectDr true = .selectIr
    ∧ nextState .captureDr false = .shiftDr ∧ nextState .captureDr true = .exit1Dr
    ∧ nextState .shiftDr false = .shiftDr ∧ nextState .shiftDr true = .exit1Dr
    ∧ nextState .exit1Dr false = .drPause ∧ nextState .exit1Dr true = .updateDr
    ∧ nextState .drPause false = .drPause ∧ nextState .drPause true = .exit2Dr
    ∧ nextState .exit2Dr false = .shiftDr ∧ nextState .exit2Dr true = .updateDr
    ∧ nextState .updateDr false = .idle ∧ nextState .updateDr true = .selectDr
    ∧ nextState .selectIr false = .captureIr ∧ nextState .selectIr true = .reset
    ∧ nextState .captureIr false = .shiftIr ∧ nextState .captureIr true = .exit1Ir
    ∧ nextState .shiftIr false = .shiftIr ∧ nextState .shiftIr true = .exit1Ir
    ∧ nextState .exit1Ir false = .irPause ∧ nextState .exit1Ir true = .updateIr
    ∧ nextState .irPause false = .irPause ∧ nextState .irPause true = .exit2Ir
    ∧ nextState .exit2Ir false = .shiftIr ∧ nextState .exit2Ir true = .updateIr
    ∧ nextState .updateIr false = .idle ∧ nextState .updateIr true = .selectDr)
  ∧ (∀ source target : TapState, ∃ tms : List Bool, walkState source tms = target)
  ∧ (∀ source : TapState, walkState source [true, true, true, true, true] = .reset)

/-- R144: `path` is the shortest walk, and the only one of its length; the longest has 8
ticks. -/
def Obligations.PathIsTheShortestWalk : Prop :=
  (∀ source target : TapState, walkState source (path source target) = target)
  ∧ (∀ (source target : TapState) (tms : List Bool), walkState source tms = target →
    (path source target).length ≤ tms.length
    ∧ (tms.length = (path source target).length → tms = path source target))
  ∧ (∀ source target : TapState, (path source target).length ≤ 8)
  ∧ (∀ source ∈ [TapState.captureDr, .shiftDr, .drPause], (path source .exit2Ir).length = 8)

/-- R140: `ACQUIRE` opens a session, and is refused while one is open. -/
def Obligations.AcquireOpensSession : Prop :=
  (∀ (s : State) (f : HostFields), s.tapOwner = true →
    exec (.acquire f) s = .next (takeError (refusal (some 0x01#8) .busy) s))
  ∧ (∀ s : State, s.tapOwner = false →
    exec (.acquire noFields) s
      = .next (finishCommand [] { s with
          tapOwner := true, ghostIr := none, ghostDrDefined := false }))

/-- R141: `RELEASE` closes the session, and takes the bit-bang mode and the width cache with it. -/
def Obligations.ReleaseClosesSession : Prop :=
  (∀ s : State, s.tapOwner = true →
    exec (.release noFields) s
      = .next (finishCommand [] { s with
          tapBitbang := false, rafValid := false, tapOwner := false }))
  ∧ (∀ (s : State) (f : HostFields), s.tapOwner = false →
    exec (.release f) s = .next (takeError (refusal (some 0x02#8) .notOwner) s))

/-- R145: `MOVE_TO_STATE` walks the shortest path with TDI = 0, and makes no tick where it is
already there. -/
def Obligations.MoveToStateWalks : Prop :=
  (∀ (s : State) (target : TapState) (tdo : List Bool), s.tapOwner = true →
    Ready [.move target tdo] s →
    exec (.moveToState ⟨0#8, (stateCode target).zeroExtend 32, 0#32, []⟩) s
        = .next (finishCommand [] (performed [.move target tdo] s))
      ∧ (performed [.move target tdo] s).tapState = target)
  ∧ (∀ s : State, s.tapOwner = true →
    exec (.moveToState ⟨0#8, (stateCode s.tapState).zeroExtend 32, 0#32, []⟩) s
      = .next (finishCommand [] s))

/-- R146: `TAP_RESET` makes five ticks with TMS = 1 and leaves the tracked state RESET. -/
def Obligations.TapResetTicksFiveTimes : Prop :=
  ∀ (s : State) (b0 b1 b2 b3 b4 : Bool), s.tapOwner = true →
    Supplies s [b0, b1, b2, b3, b4] →
    exec (.tapReset noFields) s = .next (finishCommand [] { s with
      tapState := .reset, ghostIr := none, ghostDrDefined := false
      trace := .tick true false b4 s.tapBitbang :: .tick true false b3 s.tapBitbang
        :: .tick true false b2 s.tapBitbang :: .tick true false b1 s.tapBitbang
        :: .tick true false b0 s.tapBitbang :: s.trace
      link := s.link.drop 5, linkCount := s.linkCount + 5 })

/-- R262, R147, R272: a link fault at tick `k` of a `TAP_RESET`: its error, the `k` ticks before it,
and nothing after. R290: reset asserted before tick `k` instead (log 26): the `k` ticks before it,
and no error and no response. -/
def Obligations.LinkFaultStopsTapReset : Prop :=
  (∀ (s : State) (tdo : List Bool) (rest : List LinkAnswer) (fault : LinkAnswer) (kind : ErrorKind)
    (detail : BitVec 5), s.tapOwner = true → s.resets = [] → tdo.length < 5 →
    (fault, kind, detail) ∈ [(LinkAnswer.notSupported, ErrorKind.notSupported, 0#5),
      (.io, .transportError, 1#5), (.timeout, .transportError, 2#5),
      (.malformed, .transportError, 3#5)] →
    s.link = tdo.map .bit ++ fault :: rest →
    exec (.tapReset noFields) s = .next (takeError
      { kind := kind, detail := detail, op := some 0x03#8, phase := 0, opcode := 0#8,
        errcode := 0, status := 0 }
      { s with
        tapState := walkState s.tapState (List.replicate tdo.length true)
        trace := (tdo.map fun b => Event.tick true false b s.tapBitbang).reverse ++ s.trace
        link := rest
        linkCount := s.linkCount + tdo.length + 1 }))
  ∧ (∀ (s : State) (tdo : List Bool) (rest : List LinkAnswer) (later : List Nat),
    s.tapOwner = true → tdo.length < 5 → s.resets = tdo.length :: later →
    s.link = tdo.map .bit ++ rest →
    exec (.tapReset noFields) s = .next { State.reset with
      trace := (tdo.map fun b => Event.tick true false b s.tapBitbang).reverse ++ s.trace
      link := rest
      linkCount := s.linkCount + tdo.length
      spi := s.spi, spiCount := s.spiCount
      time := s.time, clock := s.clock, clockCount := s.clockCount
      resets := later })

/-- R147, R148: `SHIFT_INSTRUCTION` shifts the opcode, bit 0 first, and returns what it captured. -/
def Obligations.ShiftInstructionShifts : Prop :=
  ∀ (s : State) (stateAfter : TapState) (length opcode : Nat) (c : Scan), s.tapOwner = true →
    length < 2 ^ 32 → opcode < 2 ^ length → Ready [.instruction opcode length stateAfter c] s →
    exec (.shiftInstruction ⟨(stateCode stateAfter).zeroExtend 8, BitVec.ofNat 32 length, 0#32,
        beBytes ((length + 7) / 8) opcode⟩) s
      = .next (finishCommand (beBytes ((length + 7) / 8) (valueOfBits c.word))
          (performed [.instruction opcode length stateAfter c] s))

/-- R149, R133, R85: `SHIFT_DATA` with and without `tdi`, in native and in wire order. -/
def Obligations.ShiftDataShifts : Prop :=
  ∀ (s : State) (stateAfter : TapState) (c : Scan), s.tapOwner = true →
    (∀ length value : Nat, length < 2 ^ 32 → value < 2 ^ length →
      Ready [.data ⟨length, value⟩ stateAfter c] s →
      exec (.shiftData ⟨0x10#8 ||| (stateCode stateAfter).zeroExtend 8, BitVec.ofNat 32 length, 0#32,
          beBytes ((length + 7) / 8) value⟩) s
        = .next (finishCommand (beBytes ((length + 7) / 8) (valueOfBits c.word))
            (performed [.data ⟨length, value⟩ stateAfter c] s)))
    ∧ (∀ length : Nat, length < 2 ^ 32 → Ready [.data (ones length) stateAfter c] s →
      exec (.shiftData ⟨(stateCode stateAfter).zeroExtend 8, BitVec.ofNat 32 length, 0#32, []⟩) s
        = .next (finishCommand (beBytes ((length + 7) / 8) (valueOfBits c.word))
            (performed [.data (ones length) stateAfter c] s)))
    ∧ (∀ bytes : List Byte, 8 * bytes.length < 2 ^ 32 →
      Ready [.data (toWire bytes) stateAfter c] s →
      exec (.shiftData ⟨0x30#8 ||| (stateCode stateAfter).zeroExtend 8,
          BitVec.ofNat 32 (8 * bytes.length), 0#32, bytes⟩) s
        = .next (finishCommand c.wireBytes (performed [.data (toWire bytes) stateAfter c] s)))
    ∧ (∀ n : Nat, 8 * n < 2 ^ 32 → Ready [.data (ones (8 * n)) stateAfter c] s →
      exec (.shiftData ⟨0x20#8 ||| (stateCode stateAfter).zeroExtend 8,
          BitVec.ofNat 32 (8 * n), 0#32, []⟩) s
        = .next (finishCommand c.wireBytes (performed [.data (ones (8 * n)) stateAfter c] s)))

/-- R150: `RUN_TEST` moves to its state and ticks there; the other states are refused. -/
def Obligations.RunTestTicks : Prop :=
  (∀ (s : State) (runState : TapState) (cycles : Word32) (tdo : List Bool), s.tapOwner = true →
    (runState = .idle ∨ runState = .drPause ∨ runState = .irPause) →
    Ready [.run cycles.toNat runState tdo] s →
    exec (.runTest ⟨(stateCode runState).zeroExtend 8, cycles, 0#32, []⟩) s
        = .next (finishCommand [] (performed [.run cycles.toNat runState tdo] s))
      ∧ (performed [.run cycles.toNat runState tdo] s).tapState = runState)
  ∧ (∀ (s : State) (runState : TapState) (cycles : Word32), s.tapOwner = true →
    runState ≠ .idle → runState ≠ .drPause → runState ≠ .irPause →
    exec (.runTest ⟨(stateCode runState).zeroExtend 8, cycles, 0#32, []⟩) s
      = .next (takeError (refusal (some 0x07#8) .badState) s))

/-- R151: `ENUMERATE` reads identities until one is all zeros or all ones, at most
`P_MAX_DEVICES`. -/
def Obligations.EnumerateListsTheChain : Prop :=
  (∀ (s : State) (reset leave : List Bool) (c last : Scan) (words : List Scan), s.tapOwner = true →
    words.length < Config.params.maxDevices →
    (∀ w ∈ words, w.word32 ≠ 0#32 ∧ w.word32 ≠ 0xFFFFFFFF#32) →
    (last.word32 = 0#32 ∨ last.word32 = 0xFFFFFFFF#32) →
    Ready (.reset reset :: .instruction Config.params.opcReadId.toNat 8 .irPause c
      :: enumeratePlan (words ++ [last]) ++ [.move .idle leave]) s →
    exec (.enumerate noFields) s = .next (finishCommand (words.flatMap fun w => be4 w.word32)
      (performed (.reset reset :: .instruction Config.params.opcReadId.toNat 8 .irPause c
        :: enumeratePlan (words ++ [last]) ++ [.move .idle leave]) s)))
  ∧ (∀ (s : State) (reset leave : List Bool) (c : Scan) (words : List Scan), s.tapOwner = true →
    words.length = Config.params.maxDevices →
    (∀ w ∈ words, w.word32 ≠ 0#32 ∧ w.word32 ≠ 0xFFFFFFFF#32) →
    Ready (.reset reset :: .instruction Config.params.opcReadId.toNat 8 .irPause c
      :: enumeratePlan words ++ [.move .idle leave]) s →
    exec (.enumerate noFields) s = .next (finishCommand (words.flatMap fun w => be4 w.word32)
      (performed (.reset reset :: .instruction Config.params.opcReadId.toNat 8 .irPause c
        :: enumeratePlan words ++ [.move .idle leave]) s)))

/-- R153, R155, R157: the mode flag, the indicator, and the refused pattern player. -/
def Obligations.ModeAndIndicatorCommands : Prop :=
  ∀ s : State, s.tapOwner = true →
    (∀ enable : Bool, exec (.forceBitbang ⟨BitVec.ofNat 8 enable.toNat, 0#32, 0#32, []⟩) s
      = .next (finishCommand [] { s with tapBitbang := enable }))
    ∧ (∀ pattern : Word32, s.resets = [] → exec (.setIndicator ⟨0#8, pattern, 0#32, []⟩) s
      = .next (finishCommand [] { s with
          trace := .indicator pattern.toNat :: s.trace, indPattern := pattern.toNat }))
    ∧ (∀ f : HostFields, exec (.playPattern f) s
      = .next (takeError (refusal (some 0x0A#8) .outOfScope) s))

/-! ### RAF -/

/-- R171: a measurement that finds two usable widths caches them; with a valid cache no tick is
made. -/
def Obligations.DetectWidthsMeasuresOnce : Prop :=
  (∀ (s : State) (reset : List Bool) (data address : ScanPair) (iw dw : Nat), s.tapOwner = true →
    s.rafValid = false → usableWidth data dw → usableWidth address iw →
    Ready (detectPlan Config.params reset data address iw dw) s →
    exec (.detectWidths noFields) s = .next (finishCommand (beBytes 4 iw ++ beBytes 4 dw)
      (performed (detectPlan Config.params reset data address iw dw) s)))
  ∧ (∀ s : State, s.tapOwner = true → s.rafValid = true →
    exec (.detectWidths noFields) s
      = .next (finishCommand (beBytes 4 s.rafIw ++ beBytes 4 s.rafDw) s))

/-- R171, R263: an unusable data width ends the command before the address width is probed, an
unusable address width after it; either leaves the cache invalid. -/
def Obligations.UnusableDataWidthRaises : Prop :=
  ∀ (s : State) (reset : List Bool) (data : ScanPair), s.tapOwner = true → s.rafValid = false →
    ((∀ w, leadingOnes (ofBits data.data.word) = some w → w = 0 ∨ w % 8 ≠ 0) →
      Ready (.reset reset :: probePlan Config.params.opcMetaDr data) s →
      exec (.detectWidths noFields) s = .next (takeError
          { kind := .configurationMismatch, detail := 1, op := some 0x10#8, phase := 0
            opcode := 0#8, errcode := 0, status := 0 }
          (performed (.reset reset :: probePlan Config.params.opcMetaDr data) s))
        ∧ (performed (.reset reset :: probePlan Config.params.opcMetaDr data) s).rafValid = false)
    ∧ (∀ (address : ScanPair) (dw : Nat), usableWidth data dw →
      (∀ w, leadingOnes (ofBits address.data.word) = some w → w = 0 ∨ w % 8 ≠ 0) →
      Ready (.reset reset :: probePlan Config.params.opcMetaDr data
        ++ probePlan Config.params.opcMetaIr address) s →
      exec (.detectWidths noFields) s = .next (takeError
          { kind := .configurationMismatch, detail := 1, op := some 0x10#8, phase := 0
            opcode := 0#8, errcode := 0, status := 0 }
          (performed (.reset reset :: probePlan Config.params.opcMetaDr data
            ++ probePlan Config.params.opcMetaIr address) s))
        ∧ (performed (.reset reset :: probePlan Config.params.opcMetaDr data
            ++ probePlan Config.params.opcMetaIr address) s).rafValid = false)

/-- R173, R88, R85: a register transaction with known widths. -/
def Obligations.RegTransactionExchanges : Prop :=
  ∀ (s : State) (address value : Nat) (isWrite : Bool) (payload : List Byte) (c : RegisterScans),
    s.tapOwner = true → s.rafValid = true → 0 < s.rafIw → 0 < s.rafDw → s.rafDw % 8 = 0 →
    address < 2 ^ 32 → address < 2 ^ (s.rafIw - 1) → value < 2 ^ s.rafDw →
    (payload = beBytes (s.rafDw / 8) value ∨ payload = [] ∧ value = 0) →
    Ready (registerPlan Config.params s.rafIw s.rafDw address isWrite value c) s →
    exec (.regTransaction ⟨BitVec.ofNat 8 isWrite.toNat, BitVec.ofNat 32 address, 0#32, payload⟩) s
      = .next (finishCommand (beBytes (s.rafDw / 8) (valueOfBits c.value.data.word))
          (performed (registerPlan Config.params s.rafIw s.rafDw address isWrite value c) s))

/-- R174, R175: `REG_READ` is the transaction that does not write, with value 0; `REG_WRITE` the one
that writes, its result discarded. -/
def Obligations.RegReadAndRegWrite : Prop :=
  ∀ (s : State) (address : Nat) (c : RegisterScans), s.tapOwner = true → s.rafValid = true →
    0 < s.rafIw → 0 < s.rafDw → s.rafDw % 8 = 0 → address < 2 ^ 32 →
    address < 2 ^ (s.rafIw - 1) →
    (Ready (registerPlan Config.params s.rafIw s.rafDw address false 0 c) s →
      exec (.regRead ⟨0#8, BitVec.ofNat 32 address, 0#32, []⟩) s
        = .next (finishCommand (beBytes (s.rafDw / 8) (valueOfBits c.value.data.word))
            (performed (registerPlan Config.params s.rafIw s.rafDw address false 0 c) s)))
    ∧ (∀ value : Nat, value < 2 ^ s.rafDw →
      Ready (registerPlan Config.params s.rafIw s.rafDw address true value c) s →
      exec (.regWrite ⟨0#8, BitVec.ofNat 32 address, 0#32, beBytes (s.rafDw / 8) value⟩) s
        = .next (finishCommand []
            (performed (registerPlan Config.params s.rafIw s.rafDw address true value c) s)))

/-- R173, R174, R175, R71: each register operation without known widths measures them first, in the
same command. -/
def Obligations.RegReadDetectsFirst : Prop :=
  ∀ (s : State) (reset : List Bool) (data addressProbe : ScanPair) (iw dw address : Nat)
    (c : RegisterScans), s.tapOwner = true → s.rafValid = false →
    usableWidth data dw → usableWidth addressProbe iw → address < 2 ^ 32 → address < 2 ^ (iw - 1) →
    (Ready (detectPlan Config.params reset data addressProbe iw dw
        ++ registerPlan Config.params iw dw address false 0 c) s →
      exec (.regRead ⟨0#8, BitVec.ofNat 32 address, 0#32, []⟩) s
        = .next (finishCommand (beBytes (dw / 8) (valueOfBits c.value.data.word))
            (performed (detectPlan Config.params reset data addressProbe iw dw
              ++ registerPlan Config.params iw dw address false 0 c) s)))
    ∧ (∀ (isWrite : Bool) (value : Nat) (payload : List Byte), value < 2 ^ dw →
      (payload = beBytes (dw / 8) value ∨ payload = [] ∧ value = 0) →
      Ready (detectPlan Config.params reset data addressProbe iw dw
        ++ registerPlan Config.params iw dw address isWrite value c) s →
      exec (.regTransaction ⟨BitVec.ofNat 8 isWrite.toNat, BitVec.ofNat 32 address, 0#32, payload⟩) s
        = .next (finishCommand (beBytes (dw / 8) (valueOfBits c.value.data.word))
            (performed (detectPlan Config.params reset data addressProbe iw dw
              ++ registerPlan Config.params iw dw address isWrite value c) s)))
    ∧ (∀ value : Nat, value < 2 ^ dw →
      Ready (detectPlan Config.params reset data addressProbe iw dw
        ++ registerPlan Config.params iw dw address true value c) s →
      exec (.regWrite ⟨0#8, BitVec.ofNat 32 address, 0#32, beBytes (dw / 8) value⟩) s
        = .next (finishCommand []
            (performed (detectPlan Config.params reset data addressProbe iw dw
              ++ registerPlan Config.params iw dw address true value c) s)))

/-- R173, R175: with known widths, an address that does not fit, and a payload that is not
`raf.dw / 8` bytes, are refused without a tick; `REG_TRANSACTION` takes an empty payload too, which
`REG_WRITE` does not (log 17). -/
def Obligations.RegisterRangesRefused : Prop :=
  (∀ (s : State) (address : Word32), s.tapOwner = true → s.rafValid = true →
    2 ^ (s.rafIw - 1) ≤ address.toNat →
    exec (.regRead ⟨0#8, address, 0#32, []⟩) s
        = .next (takeError (refusal (some 0x12#8) .badAddress) s)
      ∧ (∀ (isWrite : Bool) (payload : List Byte), payload = [] ∨ payload.length = s.rafDw / 8 →
        exec (.regTransaction ⟨BitVec.ofNat 8 isWrite.toNat, address, 0#32, payload⟩) s
          = .next (takeError (refusal (some 0x11#8) .badAddress) s))
      ∧ (∀ payload : List Byte, payload.length = s.rafDw / 8 →
        exec (.regWrite ⟨0#8, address, 0#32, payload⟩) s
          = .next (takeError (refusal (some 0x13#8) .badAddress) s)))
  ∧ (∀ (s : State) (address : Word32) (isWrite : Bool) (payload : List Byte), s.tapOwner = true →
    s.rafValid = true → payload.length ≠ s.rafDw / 8 →
    (payload ≠ [] →
      exec (.regTransaction ⟨BitVec.ofNat 8 isWrite.toNat, address, 0#32, payload⟩) s
        = .next (takeError (refusal (some 0x11#8) .badOperand) s))
      ∧ exec (.regWrite ⟨0#8, address, 0#32, payload⟩) s
        = .next (takeError (refusal (some 0x13#8) .badOperand) s))

/-! ### CFGSEQ -/

/-- R197, R198: a `CONFIGURE` whose status checks pass, with the erase found done at the first
poll. -/
def Obligations.ConfigureCompletes : Prop :=
  ∀ (s : State) (bitstream : List Byte) (c : ConfigureScans), s.tapOwner = true → bitstream ≠ [] →
    c.starts Config.params → c.completes Config.params →
    Ready (configurePlan Config.params bitstream c) s →
    exec (.configure ⟨0#8, 0#32, 0#32, bitstream⟩) s
      = .next (finishCommand (be4 c.partId.data.word32)
          (performed (configurePlan Config.params bitstream c) s))

/-- R194, R263: a `CONFIGURE` that captures no usable id stops in phase 1; the session is torn down
and the idle pattern written. -/
def Obligations.ConfigureWithoutDevice : Prop :=
  ∀ (s : State) (bitstream : List Byte) (c : ScanPair), s.tapOwner = true → bitstream ≠ [] →
    (c.data.word32 = 0#32 ∨ c.data.word32 = 0xFFFFFFFF#32) →
    Ready [.opcode Config.params.opcReadId,
      .instruction Config.params.opcReadId.toNat 8 .irPause c.instruction,
      .data (ones 32) .idle c.data] s →
    exec (.configure ⟨0#8, 0#32, 0#32, bitstream⟩) s
      = .next (takeError
          { kind := .configurationMismatch, detail := 2, op := some 0x20#8, phase := 1
            opcode := Config.params.opcReadId, errcode := 0, status := 0 }
          (performed ([.session, .indicator Config.params.indBusy,
              .instruction Config.params.opcReadId.toNat 8 .irPause c.instruction,
              .data (ones 32) .idle c.data]
            ++ configureEndPlan Config.params) s))

/-- R197 phase 8, R190, R196, R267: a device whose status after the burst shows a violation: the
error carries the first violation, the decoded error code and the whole word; ISC is disabled, the
session torn down and the idle pattern written. -/
def Obligations.ConfigureRejectedStatus : Prop :=
  ∀ (s : State) (bitstream : List Byte) (c : ConfigureScans) (v : Violation) (rest : List Violation),
    s.tapOwner = true → bitstream ≠ [] → c.starts Config.params →
    violations (decodeStatus Config.params c.doneCheck.data.word32) true false = v :: rest →
    Ready (configureStartPlan Config.params bitstream c ++ configureDonePlan Config.params c
      ++ iscDisablePlan Config.params c.iscDisable ++ configureEndPlan Config.params) s →
    exec (.configure ⟨0#8, 0#32, 0#32, bitstream⟩) s
      = .next (takeError
          { kind := .protocolViolation, detail := violationCode v, op := some 0x20#8, phase := 8
            opcode := Config.params.opcLscReadStatus
            errcode := (decodeStatus Config.params c.doneCheck.data.word32).errcode
            status := c.doneCheck.data.word32 }
          (performed (configureStartPlan Config.params bitstream c
            ++ configureDonePlan Config.params c
            ++ iscDisablePlan Config.params c.iscDisable ++ configureEndPlan Config.params) s))

/-- R199: an `UNCONFIGURE` whose status checks pass, with the erase found done at the first poll. -/
def Obligations.UnconfigureCompletes : Prop :=
  ∀ (s : State) (c : UnconfigureScans), s.tapOwner = true → c.completes Config.params →
    Ready (unconfigurePlan Config.params c) s →
    exec (.unconfigure noFields) s
      = .next (finishCommand [] (performed (unconfigurePlan Config.params c) s))

/-- R200, R192: `TRIGGER_RECONFIGURATION`, in either form of the restart. -/
def Obligations.TriggerReconfigurationCompletes : Prop :=
  ∀ (s : State) (restart : CommandScans) (idle : List Bool), s.tapOwner = true →
    Ready (triggerPlan Config.params restart idle) s →
    exec (.triggerReconfiguration noFields) s
      = .next (finishCommand [] (performed (triggerPlan Config.params restart idle) s))

/-- R191, R219, R220, R282: the three waits poll until they are done (the device not busy, the flash
not busy, the flash write-enabled), as long as each clock read after an unsuccessful poll is within
the deadline. The write-enable command is sent once. -/
def Obligations.WaitPollsUntilNotBusy : Prop :=
  ∀ (s : State) (timeout start : Nat) (advances later : List Nat),
    s.clock = start :: advances ++ later →
    (∀ (busy : List ScanPair) (last : ScanPair), advances.length = busy.length →
      (∀ k < busy.length, readTime Config.params advances k ≤ timeout) →
      (∀ c ∈ busy, (decodeStatus Config.params c.data.word32).busy = true) →
      (decodeStatus Config.params last.data.word32).busy = false →
      Ready (.clockRead :: busyPolls Config.params busy ++ statusPlan Config.params last) s →
      waitForCompletion Config.params timeout s = .ok ()
        (performed (.clockRead :: busyPolls Config.params busy ++ statusPlan Config.params last) s))
    ∧ (∀ (awaited : Byte) (busy : List Scan) (last : Scan), advances.length = busy.length →
      (∀ k < busy.length, readTime Config.params advances k ≤ timeout) →
      (∀ c ∈ busy, flashBusy Config.params c.flashStatusByte = true) →
      flashBusy Config.params last.flashStatusByte = false →
      Ready (.clockRead :: flashPolls Config.params busy ++ flashStatusPlan Config.params last) s →
      flashWaitIdle Config.params timeout awaited s = .ok ()
        (performed (.clockRead :: flashPolls Config.params busy
          ++ flashStatusPlan Config.params last) s))
    ∧ (∀ (enable : Scan) (early : List Scan) (last : Scan), advances.length = early.length →
      (∀ k < early.length,
        readTime Config.params advances k ≤ Config.params.tCtrlTimeout) →
      (∀ c ∈ early, flashWel Config.params c.flashStatusByte = false) →
      flashWel Config.params last.flashStatusByte = true →
      Ready (transferPlan [Config.params.flWriteEnable] enable
        ++ .clockRead :: flashPolls Config.params early ++ flashStatusPlan Config.params last) s →
      flashWriteEnable Config.params s = .ok ()
        (performed (transferPlan [Config.params.flWriteEnable] enable
          ++ .clockRead :: flashPolls Config.params early
          ++ flashStatusPlan Config.params last) s))

/-- R191, R219, R220, R267: and each raises `Timeout`, naming the command that was waited on, at the
first clock read past the deadline. An `ERASE_FLASH` whose write-enable wait times out answers it in
phase 2 and tears down; the erase is never sent (R298). -/
def Obligations.WaitTimesOut : Prop :=
  ∀ (s : State) (timeout start : Nat) (advances later : List Nat),
    s.clock = start :: advances ++ later →
    (∀ (busy : List ScanPair) (last : ScanPair), advances.length = busy.length + 1 →
      (∀ k < busy.length, readTime Config.params advances k ≤ timeout) →
      timeout < readTime Config.params advances busy.length →
      (∀ c ∈ busy, (decodeStatus Config.params c.data.word32).busy = true) →
      (decodeStatus Config.params last.data.word32).busy = true →
      Ready (.clockRead :: busyPolls Config.params busy ++ statusPlan Config.params last
        ++ [.clockRead]) s →
      waitForCompletion Config.params timeout s = .error (.raised (.timeout s.seqOpcode)
        { kind := .timeout, detail := 0, op := s.seqOp, phase := s.seqPhase
          opcode := s.seqOpcode, errcode := 0, status := 0 })
        (performed (.clockRead :: busyPolls Config.params busy
          ++ statusPlan Config.params last ++ [.clockRead]) s))
    ∧ (∀ (awaited : Byte) (busy : List Scan) (last : Scan), advances.length = busy.length + 1 →
      (∀ k < busy.length, readTime Config.params advances k ≤ timeout) →
      timeout < readTime Config.params advances busy.length →
      (∀ c ∈ busy, flashBusy Config.params c.flashStatusByte = true) →
      flashBusy Config.params last.flashStatusByte = true →
      Ready (.clockRead :: flashPolls Config.params busy ++ flashStatusPlan Config.params last
        ++ [.clockRead]) s →
      flashWaitIdle Config.params timeout awaited s = .error (.raised (.timeout awaited)
        { kind := .timeout, detail := 0, op := s.seqOp, phase := s.seqPhase
          opcode := awaited, errcode := 0, status := 0 })
        (performed (.clockRead :: flashPolls Config.params busy
          ++ flashStatusPlan Config.params last ++ [.clockRead]) s))
    ∧ (∀ (enable : Scan) (early : List Scan) (last : Scan), advances.length = early.length + 1 →
      (∀ k < early.length,
        readTime Config.params advances k ≤ Config.params.tCtrlTimeout) →
      Config.params.tCtrlTimeout < readTime Config.params advances early.length →
      (∀ c ∈ early, flashWel Config.params c.flashStatusByte = false) →
      flashWel Config.params last.flashStatusByte = false →
      (Ready (enableTimeoutPlan Config.params enable early last) s →
        flashWriteEnable Config.params s = .error (.raised (.timeout Config.params.flWriteEnable)
          { kind := .timeout, detail := 0, op := s.seqOp, phase := s.seqPhase
            opcode := Config.params.flWriteEnable, errcode := 0, status := 0 })
          (performed (enableTimeoutPlan Config.params enable early last) s))
      ∧ (∀ enter : CommandScans, s.tapOwner = true →
        Ready ([.session, .phase 1] ++ backgroundSpiPlan Config.params enter
          ++ .phase 2 :: enableTimeoutPlan Config.params enable early last ++ sessionEndPlan 4) s →
        exec (.eraseFlash noFields) s = .next (takeError
          { kind := .timeout, detail := 0, op := some 0x32#8, phase := 2
            opcode := Config.params.flWriteEnable, errcode := 0, status := 0 }
          (performed ([.session, .phase 1] ++ backgroundSpiPlan Config.params enter
            ++ .phase 2 :: enableTimeoutPlan Config.params enable early last
            ++ sessionEndPlan 4) s))))

/-! ### SPIB -/

/-- R221, R222, R94: the two identity reads of the flash. -/
def Obligations.FlashIdentityReads : Prop :=
  ∀ (s : State) (enter : CommandScans) (c : Scan), s.tapOwner = true →
    (Ready (flashReadPlan Config.params [Config.params.flJedecId, 0x00#8, 0x00#8, 0x00#8] enter c) s →
      exec (.readFlashId noFields) s
        = .next (finishCommand
            [c.wireBytes.getD 1 0#8, 0x00#8, c.wireBytes.getD 1 0#8, c.wireBytes.getD 2 0#8,
              c.wireBytes.getD 3 0#8]
            (performed (flashReadPlan Config.params
              [Config.params.flJedecId, 0x00#8, 0x00#8, 0x00#8] enter c) s)))
    ∧ (Ready (flashReadPlan Config.params
        (Config.params.flReadUid :: List.replicate 12 0x00#8) enter c) s →
      exec (.readFlashUid noFields) s
        = .next (finishCommand ((c.wireBytes.drop 5).take 8)
            (performed (flashReadPlan Config.params
              (Config.params.flReadUid :: List.replicate 12 0x00#8) enter c) s)))

/-- R223: `ERASE_FLASH`, with each wait over at the first poll. -/
def Obligations.EraseFlashCompletes : Prop :=
  ∀ (s : State) (enter : CommandScans) (c : ModifyScans), s.tapOwner = true →
    c.succeeds Config.params → Ready (eraseFlashPlan Config.params enter c) s →
    exec (.eraseFlash noFields) s
      = .next (finishCommand [] (performed (eraseFlashPlan Config.params enter c) s))

/-- R224, R225, R228 (e): `FLASH` with any of its options, with each wait over at the first poll:
one write a page, at increasing addresses, then the trigger. -/
def Obligations.FlashWritesEveryPage : Prop :=
  ∀ (s : State) (unprotect eraseFirst : Bool) (offset : Nat) (bitstream : List Byte)
    (c : FlashScans), s.tapOwner = true → offset % 256 = 0 →
    offset + bitstream.length ≤ 2 ^ 24 →
    c.completes Config.params unprotect eraseFirst bitstream →
    Ready (flashPlan Config.params unprotect eraseFirst offset bitstream c) s →
    exec (.flash ⟨BitVec.ofNat 8 (unprotect.toNat + 2 * eraseFirst.toNat), BitVec.ofNat 32 offset,
        0#32, bitstream⟩) s
      = .next (finishCommand []
          (performed (flashPlan Config.params unprotect eraseFirst offset bitstream c) s))

/-- R226: `READ_FLASH` reads chunks of a page, the last shorter, and trims the four echo bytes of
each. -/
def Obligations.ReadFlashReads : Prop :=
  ∀ (s : State) (offset length : Nat) (enter : CommandScans) (chunks : List Scan),
    s.tapOwner = true → offset + length ≤ 2 ^ 24 → chunks.length = (length + 255) / 256 →
    Ready (readFlashPlan Config.params offset length enter chunks) s →
    exec (.readFlash ⟨0#8, BitVec.ofNat 32 offset, BitVec.ofNat 32 length, []⟩) s
      = .next (finishCommand (chunks.flatMap fun c => c.wireBytes.drop 4)
          (performed (readFlashPlan Config.params offset length enter chunks) s))

/-- R224, R226, R269: the range refusals of the flash operations; `Misaligned` before
`BadAddress`. -/
def Obligations.FlashRangesRefused : Prop :=
  ∀ (s : State) (offset : Word32), s.tapOwner = true →
    (∀ (unprotect eraseFirst : Bool) (bitstream : List Byte),
      (offset.toNat % 256 ≠ 0 →
        exec (.flash ⟨BitVec.ofNat 8 (unprotect.toNat + 2 * eraseFirst.toNat), offset, 0#32,
            bitstream⟩) s
          = .next (takeError (refusal (some 0x33#8) .misaligned) s))
      ∧ (offset.toNat % 256 = 0 → 2 ^ 24 < offset.toNat + bitstream.length →
        exec (.flash ⟨BitVec.ofNat 8 (unprotect.toNat + 2 * eraseFirst.toNat), offset, 0#32,
            bitstream⟩) s
          = .next (takeError (refusal (some 0x33#8) .badAddress) s)))
    ∧ (∀ length : Word32, 2 ^ 24 < offset.toNat + length.toNat →
      exec (.readFlash ⟨0#8, offset, length, []⟩) s
        = .next (takeError (refusal (some 0x34#8) .badAddress) s))

/-- R246, R247, R252: an SPI transfer in the engine's variant. The ticks of the tunneled one are those
of R246's pseudocode, not of its example (log 27). -/
def Obligations.SpiTransferExchanges : Prop :=
  ∀ (s : State) (invertCs : Bool) (data : List Byte) (c : ScanPair) (received : List Byte),
    s.tapOwner = true → data ≠ [] → SpiReady Config.params data c received s →
    exec (.spiTransfer ⟨BitVec.ofNat 8 invertCs.toNat, 0#32, 0#32, data⟩) s
      = .next (finishCommand received (spiDone Config.params invertCs data c received s))

/-- R249, R250, R251, R95: the debug register exchange: five bytes out, four of them back; an address
of 128 or more is refused. -/
def Obligations.SpiRegisterExchanges : Prop :=
  (∀ (s : State) (address : Word32) (c : ScanPair) (received : List Byte), s.tapOwner = true →
    address.toNat < 128 →
    (∀ (isWrite : Bool) (value : Word32),
      SpiReady Config.params
        (BitVec.ofNat 8 ((if isWrite then 128 else 0) + address.toNat) :: be4 value) c received s →
      exec (.spiRegTransaction ⟨BitVec.ofNat 8 isWrite.toNat, address, value, []⟩) s
        = .next (finishCommand ((received.drop 1).take 4) (spiDone Config.params false
            (BitVec.ofNat 8 ((if isWrite then 128 else 0) + address.toNat) :: be4 value) c received
            s)))
    ∧ (SpiReady Config.params (BitVec.ofNat 8 address.toNat :: be4 0) c received s →
      exec (.spiRegRead ⟨0#8, address, 0#32, []⟩) s
        = .next (finishCommand ((received.drop 1).take 4) (spiDone Config.params false
            (BitVec.ofNat 8 address.toNat :: be4 0) c received s)))
    ∧ (∀ value : Word32,
      SpiReady Config.params (BitVec.ofNat 8 (128 + address.toNat) :: be4 value) c received s →
      exec (.spiRegWrite ⟨0#8, address, value, []⟩) s
        = .next (finishCommand [] (spiDone Config.params false
            (BitVec.ofNat 8 (128 + address.toNat) :: be4 value) c received s))))
  ∧ (∀ (s : State) (address value : Word32) (isWrite : Bool), s.tapOwner = true →
    128 ≤ address.toNat →
    exec (.spiRegTransaction ⟨BitVec.ofNat 8 isWrite.toNat, address, value, []⟩) s
        = .next (takeError (refusal (some 0x41#8) .badAddress) s)
      ∧ exec (.spiRegRead ⟨0#8, address, 0#32, []⟩) s
        = .next (takeError (refusal (some 0x42#8) .badAddress) s)
      ∧ exec (.spiRegWrite ⟨0#8, address, value, []⟩) s
        = .next (takeError (refusal (some 0x43#8) .badAddress) s))

/-! ### The rows of the wire tables, on the model's issue path (log 3, log 4, log 5) -/

/-- R186, R192, R193, R196, R197, R216: the ECP5 command rows without a result. -/
def Obligations.CommandRowsIssue : Prop :=
  ∀ (s : State) (c : CommandScans), s.tapOwner = true →
    (Ready (iscDisablePlan Config.params c) s → exec .opcIscDisable s
      = .next (finishCommand [] (performed (iscDisablePlan Config.params c) s)))
    ∧ (Ready (iscErasePlan Config.params c) s → exec .opcIscErase s
      = .next (finishCommand [] (performed (iscErasePlan Config.params c) s)))
    ∧ (Ready (commandPlan Config.params.opcLscRefresh none Config.params.nCmdIdle .idle c) s →
      exec .opcLscRefresh s = .next (finishCommand []
        (performed (commandPlan Config.params.opcLscRefresh none Config.params.nCmdIdle .idle c) s)))
    ∧ (Ready (preconfigurePlan Config.params c) s → exec .opcPreconf s
      = .next (finishCommand [] (performed (preconfigurePlan Config.params c) s)))
    ∧ (Ready (initAddressPlan Config.params c) s → exec .opcLscInitAddress s
      = .next (finishCommand [] (performed (initAddressPlan Config.params c) s)))
    ∧ (Ready (backgroundSpiPlan Config.params c) s → exec .opcLscEnterBackgroundSpi s
      = .next (finishCommand [] (performed (backgroundSpiPlan Config.params c) s)))

/-- R197, R190: `OPC_ISC_ENABLE` and its check, passed and failed. -/
def Obligations.IscEnableRowChecks : Prop :=
  ∀ (s : State) (c : CommandScans) (status : ScanPair), s.tapOwner = true →
    Ready (iscEnablePlan Config.params c status) s →
    (violations (decodeStatus Config.params status.data.word32) false true = [] →
      exec .opcIscEnable s
        = .next (finishCommand [] (performed (iscEnablePlan Config.params c status) s)))
    ∧ (∀ v rest, violations (decodeStatus Config.params status.data.word32) false true = v :: rest →
      exec .opcIscEnable s = .next (takeError
        { kind := .protocolViolation, detail := violationCode v, op := none, phase := 0
          opcode := Config.params.opcLscReadStatus
          errcode := (decodeStatus Config.params status.data.word32).errcode
          status := status.data.word32 }
        (performed (iscEnablePlan Config.params c status) s)))

/-- R194, R187, R53: the rows that read: an identity, a status word, the captured instruction. -/
def Obligations.ReadRowsAnswer : Prop :=
  ∀ (s : State) (c : ScanPair), s.tapOwner = true →
    (c.data.word32 ≠ 0#32 → c.data.word32 ≠ 0xFFFFFFFF#32 →
      Ready (partIdPlan Config.params c) s → exec .opcReadId s
        = .next (finishCommand (be4 c.data.word32) (performed (partIdPlan Config.params c) s)))
    ∧ (Ready (statusPlan Config.params c) s → exec .opcLscReadStatus s
      = .next (finishCommand (be4 c.data.word32) (performed (statusPlan Config.params c) s)))
    ∧ (Ready [.instruction Config.params.opcVerifyId.toNat 8 .irPause c.instruction] s →
      exec .opcVerifyId s = .next (finishCommand (beBytes 1 (valueOfBits c.instruction.word))
        (performed [.instruction Config.params.opcVerifyId.toNat 8 .irPause c.instruction] s)))

/-- R173, R91, R246: the rows whose data shift carries the sequencer's bytes. -/
def Obligations.DataRowsShift : Prop :=
  ∀ (s : State) (bytes : List Byte) (c : ScanPair), s.tapOwner = true → bytes ≠ [] →
    (Ready (metaPlan Config.params.opcMetaIr (fromBytes bytes .big) c) s →
      exec (.opcMetaIr bytes) s = .next (finishCommand (toBytes (ofBits c.data.word) .big)
        (performed (metaPlan Config.params.opcMetaIr (fromBytes bytes .big) c) s)))
    ∧ (Ready (metaPlan Config.params.opcMetaDr (fromBytes bytes .big) c) s →
      exec (.opcMetaDr bytes) s = .next (finishCommand (toBytes (ofBits c.data.word) .big)
        (performed (metaPlan Config.params.opcMetaDr (fromBytes bytes .big) c) s)))
    ∧ (Ready (tunnelPlan Config.params bytes c) s →
      exec (.opcSpiDebug bytes) s = .next (finishCommand c.data.wireBytes
        (performed (tunnelPlan Config.params bytes c) s)))
    ∧ (∀ idle : List Bool,
      Ready (burstPlan Config.params bytes c ++ [.run Config.params.nCfgIdle .drPause idle]) s →
      exec (.opcLscBitstreamBurst bytes) s = .next (finishCommand []
        (performed (burstPlan Config.params bytes c
          ++ [.run Config.params.nCfgIdle .drPause idle]) s)))

/-- R94, R217: the flash command rows, each one transaction. -/
def Obligations.FlashRowsTransact : Prop :=
  ∀ (s : State) (c : Scan), s.tapOwner = true →
    (Ready (transferPlan [Config.params.flJedecId, 0x00#8, 0x00#8, 0x00#8] c) s →
      exec .flJedecId s = .next (finishCommand
        [c.wireBytes.getD 1 0#8, 0x00#8, c.wireBytes.getD 1 0#8, c.wireBytes.getD 2 0#8,
          c.wireBytes.getD 3 0#8]
        (performed (transferPlan [Config.params.flJedecId, 0x00#8, 0x00#8, 0x00#8] c) s)))
    ∧ (Ready (transferPlan [Config.params.flWriteEnable] c) s → exec .flWriteEnable s
      = .next (finishCommand [] (performed (transferPlan [Config.params.flWriteEnable] c) s)))
    ∧ (Ready (transferPlan [Config.params.flChipErase] c) s → exec .flChipErase s
      = .next (finishCommand [] (performed (transferPlan [Config.params.flChipErase] c) s)))
    ∧ (∀ (addr : BitVec 24) (data : List Byte),
      Ready (transferPlan (Config.params.flWritePage :: be3 addr ++ data) c) s →
      exec (.flWritePage addr data) s = .next (finishCommand []
        (performed (transferPlan (Config.params.flWritePage :: be3 addr ++ data) c) s)))
    ∧ (∀ (addr : BitVec 24) (count : Nat),
      Ready (transferPlan (Config.params.flReadPage :: be3 addr
        ++ List.replicate count 0x00#8) c) s →
      exec (.flReadPage addr count) s = .next (finishCommand (c.wireBytes.drop 4)
        (performed (transferPlan (Config.params.flReadPage :: be3 addr
          ++ List.replicate count 0x00#8) c) s)))
    ∧ (Ready (transferPlan [Config.params.flReadStatus, 0x00#8] c) s → exec .flReadStatus s
      = .next (finishCommand [c.wireBytes.getD 1 0#8]
          (performed (transferPlan [Config.params.flReadStatus, 0x00#8] c) s)))
    ∧ (Ready (transferPlan [Config.params.flWriteStatus, 0x00#8] c) s → exec .flWriteStatus s
      = .next (finishCommand []
          (performed (transferPlan [Config.params.flWriteStatus, 0x00#8] c) s)))
    ∧ (Ready (transferPlan (Config.params.flReadUid :: List.replicate 12 0x00#8) c) s →
      exec .flReadUid s = .next (finishCommand ((c.wireBytes.drop 5).take 8)
        (performed (transferPlan (Config.params.flReadUid :: List.replicate 12 0x00#8) c) s)))

/-! ### Errors and whole-machine rules -/

/-- R81, R100, R101, R135, R265, R267: what taking an error writes, and what returning writes. That
the frame is then off the port is log 2's choice; what the phase's byte or the length's 32 bits show
for a value that does not fit them is free (log 20). -/
def Obligations.ResponsesAndErrorRecord : Prop :=
  (∀ (e : ErrorRecord) (s : State), ∃ phase : Byte, (e.phase < 256 → phase.toNat = e.phase) ∧
    takeError e s = { s with
      errLast := some e, seqOp := none, seqPhase := 0, seqOpcode := 0#8, hostCmd := none
      hostResp := [match e.kind with
          | .transportError => 1#8
          | .protocolViolation => 2#8
          | .timeout => 3#8
          | .configurationMismatch => 4#8
          | .notSupported => 5#8
          | .refused => 6#8,
        phase, e.opcode, BitVec.ofNat 8 (8 * e.detail.toNat + e.errcode.toNat)]
        ++ beBytes 4 e.status.toNat ++ [0#8, 0#8, 0#8, 0#8] })
  ∧ (∀ (data : List Byte) (s : State), ∃ length : Word32,
    (data.length < 2 ^ 32 → length.toNat = data.length) ∧
    finishCommand data s = { s with
      seqOp := none, seqPhase := 0, seqOpcode := 0#8, hostCmd := none
      hostResp := [0#8, 0#8, 0#8, 0#8, 0#8, 0#8, 0#8, 0#8] ++ beBytes 4 length.toNat ++ data })

/-- R101, R265, R31, R290: every command, whatever the oracles answer, ends with one response and
`seq.*` cleared, where no reset stops it; `err.last` changes only with an error, to the record the
response carries. That each poll loop ends rests on `T_POLL_SLEEP` > 0, the model's choice (log 12),
and the emptied port on log 2's. -/
def Obligations.EveryCommandAnswersOnce : Prop :=
  ∀ (i : Instr) (s : State), ∃ t, exec i s = .next t
    ∧ t.hostCmd = none ∧ t.seqOp = none ∧ t.seqPhase = 0 ∧ t.seqOpcode = 0#8
    ∧ ((∃ data, t.hostResp = okResponse data ∧ t.errLast = s.errLast)
      ∨ (∃ e, t.hostResp = errorResponse e ∧ t.errLast = some e)
      ∨ (s.resets ≠ [] ∧ t.hostResp = [] ∧ t.errLast = none))

/-- R22 (a), R52, R272: where no reset comes (R290), the trace only grows, and the tracked state moves
with the ticks that the trace gains and with nothing else. -/
def Obligations.TrackedStateFollowsTicks : Prop :=
  ∀ (i : Instr) (s t : State), s.resets = [] → exec i s = .next t →
    ∃ events : List Event, t.trace = events ++ s.trace
      ∧ t.tapState = walkState s.tapState (ticksTms events.reverse)

/-- R23, R26, R33, R71, R266: where no reset comes (R273, R290), the owner flag is changed by
`ACQUIRE` and `RELEASE` only, and by no error; the width cache is written by detection and `RELEASE`
only; the bit-bang flag by `FORCE_BITBANG`, `RELEASE` and the SPI transfer only. -/
def Obligations.FlagsHaveTheirWriters : Prop :=
  ∀ (i : Instr) (s t : State), s.resets = [] → exec i s = .next t → (∀ f, i ≠ .release f) →
    ((∀ f, i ≠ .acquire f) → t.tapOwner = s.tapOwner)
    ∧ ((∀ f, i ≠ .detectWidths f ∧ i ≠ .regTransaction f ∧ i ≠ .regRead f ∧ i ≠ .regWrite f) →
      t.rafValid = s.rafValid ∧ t.rafIw = s.rafIw ∧ t.rafDw = s.rafDw)
    ∧ ((∀ f, i ≠ .forceBitbang f ∧ i ≠ .spiTransfer f ∧ i ≠ .spiRegTransaction f
        ∧ i ≠ .spiRegRead f ∧ i ≠ .spiRegWrite f) → (∀ data, i ≠ .opcSpiDebug data) →
      t.tapBitbang = s.tapBitbang)

/-- R283, R29: where no reset comes (R290), only `CONFIGURE` and `SET_INDICATOR` write the indicator
sink and `ind.pattern`. -/
def Obligations.OnlyTwoCommandsWriteIndicator : Prop :=
  ∀ (i : Instr) (s t : State), s.resets = [] → exec i s = .next t →
    (∀ f, i ≠ .configure f ∧ i ≠ .setIndicator f) →
    t.indPattern = s.indPattern
    ∧ ∃ events : List Event, t.trace = events ++ s.trace ∧ ∀ p, .indicator p ∉ events

/-- R197, R266: `CONFIGURE` writes the idle pattern on every path after the busy one, also where its
teardown fails: with a bitstream, a session and no reset to come (R290), whatever the oracles answer,
the pattern is idle afterwards. That it ends at all rests on `T_POLL_SLEEP` > 0, the model's choice
(log 12). -/
def Obligations.ConfigureRestoresIdlePattern : Prop :=
  ∀ (s : State) (bitstream : List Byte), s.tapOwner = true → s.resets = [] → bitstream ≠ [] →
    ∃ t, exec (.configure ⟨0#8, 0#32, 0#32, bitstream⟩) s = .next t
      ∧ t.indPattern = Config.params.indIdle
      ∧ ∃ events, t.trace = .indicator Config.params.indIdle :: events
        ++ .indicator Config.params.indBusy :: s.trace

/-- R32, R29, R31: no operation's result depends on the ghost elements, `ind.pattern`, `err.last` or
the last response. That both runs end rests on `T_POLL_SLEEP` > 0, the model's choice (log 12). -/
def Obligations.RecordsDoNotMatter : Prop :=
  ∀ (i : Instr) (s s' : State), withoutRecords s = withoutRecords s' →
    ∃ t t', exec i s = .next t ∧ exec i s' = .next t' ∧ t.hostResp = t'.hostResp
      ∧ withoutRecords t = withoutRecords t'

end
end

