-- ==== Sys2Proof/Laws/State.lean ====
section
/-! SUPPORT. One lemma per field for each named state update of Machine/Ops.lean, Machine/Tap.lean
and Machine/Fetch.lean, so that no proof unfolds one. -/

namespace Sys2Proof.Machine

/-! ### `emit` -/

@[simp] theorem emit_hostCmd (e : Event) (s : State) :
    (emit e s).hostCmd = s.hostCmd := rfl
@[simp] theorem emit_hostResp (e : Event) (s : State) :
    (emit e s).hostResp = s.hostResp := rfl
@[simp] theorem emit_tapState (e : Event) (s : State) :
    (emit e s).tapState = s.tapState := rfl
@[simp] theorem emit_tapOwner (e : Event) (s : State) :
    (emit e s).tapOwner = s.tapOwner := rfl
@[simp] theorem emit_tapBitbang (e : Event) (s : State) :
    (emit e s).tapBitbang = s.tapBitbang := rfl
@[simp] theorem emit_shOut (e : Event) (s : State) :
    (emit e s).shOut = s.shOut := rfl
@[simp] theorem emit_shIn (e : Event) (s : State) :
    (emit e s).shIn = s.shIn := rfl
@[simp] theorem emit_rafValid (e : Event) (s : State) :
    (emit e s).rafValid = s.rafValid := rfl
@[simp] theorem emit_rafIw (e : Event) (s : State) :
    (emit e s).rafIw = s.rafIw := rfl
@[simp] theorem emit_rafDw (e : Event) (s : State) :
    (emit e s).rafDw = s.rafDw := rfl
@[simp] theorem emit_cfgActive (e : Event) (s : State) :
    (emit e s).cfgActive = s.cfgActive := rfl
@[simp] theorem emit_cfgPartId (e : Event) (s : State) :
    (emit e s).cfgPartId = s.cfgPartId := rfl
@[simp] theorem emit_cfgIsc (e : Event) (s : State) :
    (emit e s).cfgIsc = s.cfgIsc := rfl
@[simp] theorem emit_cfgBgspi (e : Event) (s : State) :
    (emit e s).cfgBgspi = s.cfgBgspi := rfl
@[simp] theorem emit_indPattern (e : Event) (s : State) :
    (emit e s).indPattern = s.indPattern := rfl
@[simp] theorem emit_seqOp (e : Event) (s : State) :
    (emit e s).seqOp = s.seqOp := rfl
@[simp] theorem emit_seqPhase (e : Event) (s : State) :
    (emit e s).seqPhase = s.seqPhase := rfl
@[simp] theorem emit_seqOpcode (e : Event) (s : State) :
    (emit e s).seqOpcode = s.seqOpcode := rfl
@[simp] theorem emit_errLast (e : Event) (s : State) :
    (emit e s).errLast = s.errLast := rfl
@[simp] theorem emit_ghostIr (e : Event) (s : State) :
    (emit e s).ghostIr = s.ghostIr := rfl
@[simp] theorem emit_ghostDrDefined (e : Event) (s : State) :
    (emit e s).ghostDrDefined = s.ghostDrDefined := rfl
@[simp] theorem emit_trace (e : Event) (s : State) :
    (emit e s).trace = e :: s.trace := rfl
@[simp] theorem emit_link (e : Event) (s : State) :
    (emit e s).link = s.link := rfl
@[simp] theorem emit_linkCount (e : Event) (s : State) :
    (emit e s).linkCount = s.linkCount := rfl
@[simp] theorem emit_spi (e : Event) (s : State) :
    (emit e s).spi = s.spi := rfl
@[simp] theorem emit_spiCount (e : Event) (s : State) :
    (emit e s).spiCount = s.spiCount := rfl
@[simp] theorem emit_time (e : Event) (s : State) :
    (emit e s).time = s.time := rfl
@[simp] theorem emit_clock (e : Event) (s : State) :
    (emit e s).clock = s.clock := rfl
@[simp] theorem emit_clockCount (e : Event) (s : State) :
    (emit e s).clockCount = s.clockCount := rfl
@[simp] theorem emit_resets (e : Event) (s : State) :
    (emit e s).resets = s.resets := rfl

/-! ### `nextLink` -/

@[simp] theorem nextLink_hostCmd (s : State) :
    (nextLink s).hostCmd = s.hostCmd := rfl
@[simp] theorem nextLink_hostResp (s : State) :
    (nextLink s).hostResp = s.hostResp := rfl
@[simp] theorem nextLink_tapState (s : State) :
    (nextLink s).tapState = s.tapState := rfl
@[simp] theorem nextLink_tapOwner (s : State) :
    (nextLink s).tapOwner = s.tapOwner := rfl
@[simp] theorem nextLink_tapBitbang (s : State) :
    (nextLink s).tapBitbang = s.tapBitbang := rfl
@[simp] theorem nextLink_shOut (s : State) :
    (nextLink s).shOut = s.shOut := rfl
@[simp] theorem nextLink_shIn (s : State) :
    (nextLink s).shIn = s.shIn := rfl
@[simp] theorem nextLink_rafValid (s : State) :
    (nextLink s).rafValid = s.rafValid := rfl
@[simp] theorem nextLink_rafIw (s : State) :
    (nextLink s).rafIw = s.rafIw := rfl
@[simp] theorem nextLink_rafDw (s : State) :
    (nextLink s).rafDw = s.rafDw := rfl
@[simp] theorem nextLink_cfgActive (s : State) :
    (nextLink s).cfgActive = s.cfgActive := rfl
@[simp] theorem nextLink_cfgPartId (s : State) :
    (nextLink s).cfgPartId = s.cfgPartId := rfl
@[simp] theorem nextLink_cfgIsc (s : State) :
    (nextLink s).cfgIsc = s.cfgIsc := rfl
@[simp] theorem nextLink_cfgBgspi (s : State) :
    (nextLink s).cfgBgspi = s.cfgBgspi := rfl
@[simp] theorem nextLink_indPattern (s : State) :
    (nextLink s).indPattern = s.indPattern := rfl
@[simp] theorem nextLink_seqOp (s : State) :
    (nextLink s).seqOp = s.seqOp := rfl
@[simp] theorem nextLink_seqPhase (s : State) :
    (nextLink s).seqPhase = s.seqPhase := rfl
@[simp] theorem nextLink_seqOpcode (s : State) :
    (nextLink s).seqOpcode = s.seqOpcode := rfl
@[simp] theorem nextLink_errLast (s : State) :
    (nextLink s).errLast = s.errLast := rfl
@[simp] theorem nextLink_ghostIr (s : State) :
    (nextLink s).ghostIr = s.ghostIr := rfl
@[simp] theorem nextLink_ghostDrDefined (s : State) :
    (nextLink s).ghostDrDefined = s.ghostDrDefined := rfl
@[simp] theorem nextLink_trace (s : State) :
    (nextLink s).trace = s.trace := rfl
@[simp] theorem nextLink_link (s : State) :
    (nextLink s).link = s.link.tail := rfl
@[simp] theorem nextLink_linkCount (s : State) :
    (nextLink s).linkCount = s.linkCount + 1 := rfl
@[simp] theorem nextLink_spi (s : State) :
    (nextLink s).spi = s.spi := rfl
@[simp] theorem nextLink_spiCount (s : State) :
    (nextLink s).spiCount = s.spiCount := rfl
@[simp] theorem nextLink_time (s : State) :
    (nextLink s).time = s.time := rfl
@[simp] theorem nextLink_clock (s : State) :
    (nextLink s).clock = s.clock := rfl
@[simp] theorem nextLink_clockCount (s : State) :
    (nextLink s).clockCount = s.clockCount := rfl
@[simp] theorem nextLink_resets (s : State) :
    (nextLink s).resets = s.resets := rfl

/-! ### `nextSpi` -/

@[simp] theorem nextSpi_hostCmd (s : State) :
    (nextSpi s).hostCmd = s.hostCmd := rfl
@[simp] theorem nextSpi_hostResp (s : State) :
    (nextSpi s).hostResp = s.hostResp := rfl
@[simp] theorem nextSpi_tapState (s : State) :
    (nextSpi s).tapState = s.tapState := rfl
@[simp] theorem nextSpi_tapOwner (s : State) :
    (nextSpi s).tapOwner = s.tapOwner := rfl
@[simp] theorem nextSpi_tapBitbang (s : State) :
    (nextSpi s).tapBitbang = s.tapBitbang := rfl
@[simp] theorem nextSpi_shOut (s : State) :
    (nextSpi s).shOut = s.shOut := rfl
@[simp] theorem nextSpi_shIn (s : State) :
    (nextSpi s).shIn = s.shIn := rfl
@[simp] theorem nextSpi_rafValid (s : State) :
    (nextSpi s).rafValid = s.rafValid := rfl
@[simp] theorem nextSpi_rafIw (s : State) :
    (nextSpi s).rafIw = s.rafIw := rfl
@[simp] theorem nextSpi_rafDw (s : State) :
    (nextSpi s).rafDw = s.rafDw := rfl
@[simp] theorem nextSpi_cfgActive (s : State) :
    (nextSpi s).cfgActive = s.cfgActive := rfl
@[simp] theorem nextSpi_cfgPartId (s : State) :
    (nextSpi s).cfgPartId = s.cfgPartId := rfl
@[simp] theorem nextSpi_cfgIsc (s : State) :
    (nextSpi s).cfgIsc = s.cfgIsc := rfl
@[simp] theorem nextSpi_cfgBgspi (s : State) :
    (nextSpi s).cfgBgspi = s.cfgBgspi := rfl
@[simp] theorem nextSpi_indPattern (s : State) :
    (nextSpi s).indPattern = s.indPattern := rfl
@[simp] theorem nextSpi_seqOp (s : State) :
    (nextSpi s).seqOp = s.seqOp := rfl
@[simp] theorem nextSpi_seqPhase (s : State) :
    (nextSpi s).seqPhase = s.seqPhase := rfl
@[simp] theorem nextSpi_seqOpcode (s : State) :
    (nextSpi s).seqOpcode = s.seqOpcode := rfl
@[simp] theorem nextSpi_errLast (s : State) :
    (nextSpi s).errLast = s.errLast := rfl
@[simp] theorem nextSpi_ghostIr (s : State) :
    (nextSpi s).ghostIr = s.ghostIr := rfl
@[simp] theorem nextSpi_ghostDrDefined (s : State) :
    (nextSpi s).ghostDrDefined = s.ghostDrDefined := rfl
@[simp] theorem nextSpi_trace (s : State) :
    (nextSpi s).trace = s.trace := rfl
@[simp] theorem nextSpi_link (s : State) :
    (nextSpi s).link = s.link := rfl
@[simp] theorem nextSpi_linkCount (s : State) :
    (nextSpi s).linkCount = s.linkCount := rfl
@[simp] theorem nextSpi_spi (s : State) :
    (nextSpi s).spi = s.spi.tail := rfl
@[simp] theorem nextSpi_spiCount (s : State) :
    (nextSpi s).spiCount = s.spiCount + 1 := rfl
@[simp] theorem nextSpi_time (s : State) :
    (nextSpi s).time = s.time := rfl
@[simp] theorem nextSpi_clock (s : State) :
    (nextSpi s).clock = s.clock := rfl
@[simp] theorem nextSpi_clockCount (s : State) :
    (nextSpi s).clockCount = s.clockCount := rfl
@[simp] theorem nextSpi_resets (s : State) :
    (nextSpi s).resets = s.resets := rfl

/-! ### `afterTick` -/

@[simp] theorem afterTick_hostCmd (tms tdi tdo : Bool) (s : State) :
    (afterTick tms tdi tdo s).hostCmd = s.hostCmd := rfl
@[simp] theorem afterTick_hostResp (tms tdi tdo : Bool) (s : State) :
    (afterTick tms tdi tdo s).hostResp = s.hostResp := rfl
@[simp] theorem afterTick_tapState (tms tdi tdo : Bool) (s : State) :
    (afterTick tms tdi tdo s).tapState = nextState s.tapState tms := rfl
@[simp] theorem afterTick_tapOwner (tms tdi tdo : Bool) (s : State) :
    (afterTick tms tdi tdo s).tapOwner = s.tapOwner := rfl
@[simp] theorem afterTick_tapBitbang (tms tdi tdo : Bool) (s : State) :
    (afterTick tms tdi tdo s).tapBitbang = s.tapBitbang := rfl
@[simp] theorem afterTick_shOut (tms tdi tdo : Bool) (s : State) :
    (afterTick tms tdi tdo s).shOut = s.shOut := rfl
@[simp] theorem afterTick_shIn (tms tdi tdo : Bool) (s : State) :
    (afterTick tms tdi tdo s).shIn = s.shIn := rfl
@[simp] theorem afterTick_rafValid (tms tdi tdo : Bool) (s : State) :
    (afterTick tms tdi tdo s).rafValid = s.rafValid := rfl
@[simp] theorem afterTick_rafIw (tms tdi tdo : Bool) (s : State) :
    (afterTick tms tdi tdo s).rafIw = s.rafIw := rfl
@[simp] theorem afterTick_rafDw (tms tdi tdo : Bool) (s : State) :
    (afterTick tms tdi tdo s).rafDw = s.rafDw := rfl
@[simp] theorem afterTick_cfgActive (tms tdi tdo : Bool) (s : State) :
    (afterTick tms tdi tdo s).cfgActive = s.cfgActive := rfl
@[simp] theorem afterTick_cfgPartId (tms tdi tdo : Bool) (s : State) :
    (afterTick tms tdi tdo s).cfgPartId = s.cfgPartId := rfl
@[simp] theorem afterTick_cfgIsc (tms tdi tdo : Bool) (s : State) :
    (afterTick tms tdi tdo s).cfgIsc = s.cfgIsc := rfl
@[simp] theorem afterTick_cfgBgspi (tms tdi tdo : Bool) (s : State) :
    (afterTick tms tdi tdo s).cfgBgspi = s.cfgBgspi := rfl
@[simp] theorem afterTick_indPattern (tms tdi tdo : Bool) (s : State) :
    (afterTick tms tdi tdo s).indPattern = s.indPattern := rfl
@[simp] theorem afterTick_seqOp (tms tdi tdo : Bool) (s : State) :
    (afterTick tms tdi tdo s).seqOp = s.seqOp := rfl
@[simp] theorem afterTick_seqPhase (tms tdi tdo : Bool) (s : State) :
    (afterTick tms tdi tdo s).seqPhase = s.seqPhase := rfl
@[simp] theorem afterTick_seqOpcode (tms tdi tdo : Bool) (s : State) :
    (afterTick tms tdi tdo s).seqOpcode = s.seqOpcode := rfl
@[simp] theorem afterTick_errLast (tms tdi tdo : Bool) (s : State) :
    (afterTick tms tdi tdo s).errLast = s.errLast := rfl
@[simp] theorem afterTick_ghostIr (tms tdi tdo : Bool) (s : State) :
    (afterTick tms tdi tdo s).ghostIr = s.ghostIr := rfl
@[simp] theorem afterTick_ghostDrDefined (tms tdi tdo : Bool) (s : State) :
    (afterTick tms tdi tdo s).ghostDrDefined = s.ghostDrDefined := rfl
@[simp] theorem afterTick_trace (tms tdi tdo : Bool) (s : State) :
    (afterTick tms tdi tdo s).trace = .tick tms tdi tdo s.tapBitbang :: s.trace := rfl
@[simp] theorem afterTick_link (tms tdi tdo : Bool) (s : State) :
    (afterTick tms tdi tdo s).link = s.link.tail := rfl
@[simp] theorem afterTick_linkCount (tms tdi tdo : Bool) (s : State) :
    (afterTick tms tdi tdo s).linkCount = s.linkCount + 1 := rfl
@[simp] theorem afterTick_spi (tms tdi tdo : Bool) (s : State) :
    (afterTick tms tdi tdo s).spi = s.spi := rfl
@[simp] theorem afterTick_spiCount (tms tdi tdo : Bool) (s : State) :
    (afterTick tms tdi tdo s).spiCount = s.spiCount := rfl
@[simp] theorem afterTick_time (tms tdi tdo : Bool) (s : State) :
    (afterTick tms tdi tdo s).time = s.time := rfl
@[simp] theorem afterTick_clock (tms tdi tdo : Bool) (s : State) :
    (afterTick tms tdi tdo s).clock = s.clock := rfl
@[simp] theorem afterTick_clockCount (tms tdi tdo : Bool) (s : State) :
    (afterTick tms tdi tdo s).clockCount = s.clockCount := rfl
@[simp] theorem afterTick_resets (tms tdi tdo : Bool) (s : State) :
    (afterTick tms tdi tdo s).resets = s.resets := rfl

/-! ### `forgetLatched` -/

@[simp] theorem forgetLatched_hostCmd (s : State) :
    (forgetLatched s).hostCmd = s.hostCmd := rfl
@[simp] theorem forgetLatched_hostResp (s : State) :
    (forgetLatched s).hostResp = s.hostResp := rfl
@[simp] theorem forgetLatched_tapState (s : State) :
    (forgetLatched s).tapState = s.tapState := rfl
@[simp] theorem forgetLatched_tapOwner (s : State) :
    (forgetLatched s).tapOwner = s.tapOwner := rfl
@[simp] theorem forgetLatched_tapBitbang (s : State) :
    (forgetLatched s).tapBitbang = s.tapBitbang := rfl
@[simp] theorem forgetLatched_shOut (s : State) :
    (forgetLatched s).shOut = s.shOut := rfl
@[simp] theorem forgetLatched_shIn (s : State) :
    (forgetLatched s).shIn = s.shIn := rfl
@[simp] theorem forgetLatched_rafValid (s : State) :
    (forgetLatched s).rafValid = s.rafValid := rfl
@[simp] theorem forgetLatched_rafIw (s : State) :
    (forgetLatched s).rafIw = s.rafIw := rfl
@[simp] theorem forgetLatched_rafDw (s : State) :
    (forgetLatched s).rafDw = s.rafDw := rfl
@[simp] theorem forgetLatched_cfgActive (s : State) :
    (forgetLatched s).cfgActive = s.cfgActive := rfl
@[simp] theorem forgetLatched_cfgPartId (s : State) :
    (forgetLatched s).cfgPartId = s.cfgPartId := rfl
@[simp] theorem forgetLatched_cfgIsc (s : State) :
    (forgetLatched s).cfgIsc = s.cfgIsc := rfl
@[simp] theorem forgetLatched_cfgBgspi (s : State) :
    (forgetLatched s).cfgBgspi = s.cfgBgspi := rfl
@[simp] theorem forgetLatched_indPattern (s : State) :
    (forgetLatched s).indPattern = s.indPattern := rfl
@[simp] theorem forgetLatched_seqOp (s : State) :
    (forgetLatched s).seqOp = s.seqOp := rfl
@[simp] theorem forgetLatched_seqPhase (s : State) :
    (forgetLatched s).seqPhase = s.seqPhase := rfl
@[simp] theorem forgetLatched_seqOpcode (s : State) :
    (forgetLatched s).seqOpcode = s.seqOpcode := rfl
@[simp] theorem forgetLatched_errLast (s : State) :
    (forgetLatched s).errLast = s.errLast := rfl
@[simp] theorem forgetLatched_ghostIr (s : State) :
    (forgetLatched s).ghostIr = none := rfl
@[simp] theorem forgetLatched_ghostDrDefined (s : State) :
    (forgetLatched s).ghostDrDefined = false := rfl
@[simp] theorem forgetLatched_trace (s : State) :
    (forgetLatched s).trace = s.trace := rfl
@[simp] theorem forgetLatched_link (s : State) :
    (forgetLatched s).link = s.link := rfl
@[simp] theorem forgetLatched_linkCount (s : State) :
    (forgetLatched s).linkCount = s.linkCount := rfl
@[simp] theorem forgetLatched_spi (s : State) :
    (forgetLatched s).spi = s.spi := rfl
@[simp] theorem forgetLatched_spiCount (s : State) :
    (forgetLatched s).spiCount = s.spiCount := rfl
@[simp] theorem forgetLatched_time (s : State) :
    (forgetLatched s).time = s.time := rfl
@[simp] theorem forgetLatched_clock (s : State) :
    (forgetLatched s).clock = s.clock := rfl
@[simp] theorem forgetLatched_clockCount (s : State) :
    (forgetLatched s).clockCount = s.clockCount := rfl
@[simp] theorem forgetLatched_resets (s : State) :
    (forgetLatched s).resets = s.resets := rfl

/-! ### `loadShift` -/

@[simp] theorem loadShift_hostCmd (v : BitVector) (s : State) :
    (loadShift v s).hostCmd = s.hostCmd := rfl
@[simp] theorem loadShift_hostResp (v : BitVector) (s : State) :
    (loadShift v s).hostResp = s.hostResp := rfl
@[simp] theorem loadShift_tapState (v : BitVector) (s : State) :
    (loadShift v s).tapState = s.tapState := rfl
@[simp] theorem loadShift_tapOwner (v : BitVector) (s : State) :
    (loadShift v s).tapOwner = s.tapOwner := rfl
@[simp] theorem loadShift_tapBitbang (v : BitVector) (s : State) :
    (loadShift v s).tapBitbang = s.tapBitbang := rfl
@[simp] theorem loadShift_shOut (v : BitVector) (s : State) :
    (loadShift v s).shOut = v := rfl
@[simp] theorem loadShift_shIn (v : BitVector) (s : State) :
    (loadShift v s).shIn = ⟨0, 0⟩ := rfl
@[simp] theorem loadShift_rafValid (v : BitVector) (s : State) :
    (loadShift v s).rafValid = s.rafValid := rfl
@[simp] theorem loadShift_rafIw (v : BitVector) (s : State) :
    (loadShift v s).rafIw = s.rafIw := rfl
@[simp] theorem loadShift_rafDw (v : BitVector) (s : State) :
    (loadShift v s).rafDw = s.rafDw := rfl
@[simp] theorem loadShift_cfgActive (v : BitVector) (s : State) :
    (loadShift v s).cfgActive = s.cfgActive := rfl
@[simp] theorem loadShift_cfgPartId (v : BitVector) (s : State) :
    (loadShift v s).cfgPartId = s.cfgPartId := rfl
@[simp] theorem loadShift_cfgIsc (v : BitVector) (s : State) :
    (loadShift v s).cfgIsc = s.cfgIsc := rfl
@[simp] theorem loadShift_cfgBgspi (v : BitVector) (s : State) :
    (loadShift v s).cfgBgspi = s.cfgBgspi := rfl
@[simp] theorem loadShift_indPattern (v : BitVector) (s : State) :
    (loadShift v s).indPattern = s.indPattern := rfl
@[simp] theorem loadShift_seqOp (v : BitVector) (s : State) :
    (loadShift v s).seqOp = s.seqOp := rfl
@[simp] theorem loadShift_seqPhase (v : BitVector) (s : State) :
    (loadShift v s).seqPhase = s.seqPhase := rfl
@[simp] theorem loadShift_seqOpcode (v : BitVector) (s : State) :
    (loadShift v s).seqOpcode = s.seqOpcode := rfl
@[simp] theorem loadShift_errLast (v : BitVector) (s : State) :
    (loadShift v s).errLast = s.errLast := rfl
@[simp] theorem loadShift_ghostIr (v : BitVector) (s : State) :
    (loadShift v s).ghostIr = s.ghostIr := rfl
@[simp] theorem loadShift_ghostDrDefined (v : BitVector) (s : State) :
    (loadShift v s).ghostDrDefined = s.ghostDrDefined := rfl
@[simp] theorem loadShift_trace (v : BitVector) (s : State) :
    (loadShift v s).trace = s.trace := rfl
@[simp] theorem loadShift_link (v : BitVector) (s : State) :
    (loadShift v s).link = s.link := rfl
@[simp] theorem loadShift_linkCount (v : BitVector) (s : State) :
    (loadShift v s).linkCount = s.linkCount := rfl
@[simp] theorem loadShift_spi (v : BitVector) (s : State) :
    (loadShift v s).spi = s.spi := rfl
@[simp] theorem loadShift_spiCount (v : BitVector) (s : State) :
    (loadShift v s).spiCount = s.spiCount := rfl
@[simp] theorem loadShift_time (v : BitVector) (s : State) :
    (loadShift v s).time = s.time := rfl
@[simp] theorem loadShift_clock (v : BitVector) (s : State) :
    (loadShift v s).clock = s.clock := rfl
@[simp] theorem loadShift_clockCount (v : BitVector) (s : State) :
    (loadShift v s).clockCount = s.clockCount := rfl
@[simp] theorem loadShift_resets (v : BitVector) (s : State) :
    (loadShift v s).resets = s.resets := rfl

/-! ### `captureBit` -/

@[simp] theorem captureBit_hostCmd (tdo : Bool) (s : State) :
    (captureBit tdo s).hostCmd = s.hostCmd := rfl
@[simp] theorem captureBit_hostResp (tdo : Bool) (s : State) :
    (captureBit tdo s).hostResp = s.hostResp := rfl
@[simp] theorem captureBit_tapState (tdo : Bool) (s : State) :
    (captureBit tdo s).tapState = s.tapState := rfl
@[simp] theorem captureBit_tapOwner (tdo : Bool) (s : State) :
    (captureBit tdo s).tapOwner = s.tapOwner := rfl
@[simp] theorem captureBit_tapBitbang (tdo : Bool) (s : State) :
    (captureBit tdo s).tapBitbang = s.tapBitbang := rfl
@[simp] theorem captureBit_shOut (tdo : Bool) (s : State) :
    (captureBit tdo s).shOut = s.shOut := rfl
@[simp] theorem captureBit_shIn (tdo : Bool) (s : State) :
    (captureBit tdo s).shIn = ⟨s.shIn.len + 1, s.shIn.val + tdo.toNat * 2 ^ s.shIn.len⟩ := rfl
@[simp] theorem captureBit_rafValid (tdo : Bool) (s : State) :
    (captureBit tdo s).rafValid = s.rafValid := rfl
@[simp] theorem captureBit_rafIw (tdo : Bool) (s : State) :
    (captureBit tdo s).rafIw = s.rafIw := rfl
@[simp] theorem captureBit_rafDw (tdo : Bool) (s : State) :
    (captureBit tdo s).rafDw = s.rafDw := rfl
@[simp] theorem captureBit_cfgActive (tdo : Bool) (s : State) :
    (captureBit tdo s).cfgActive = s.cfgActive := rfl
@[simp] theorem captureBit_cfgPartId (tdo : Bool) (s : State) :
    (captureBit tdo s).cfgPartId = s.cfgPartId := rfl
@[simp] theorem captureBit_cfgIsc (tdo : Bool) (s : State) :
    (captureBit tdo s).cfgIsc = s.cfgIsc := rfl
@[simp] theorem captureBit_cfgBgspi (tdo : Bool) (s : State) :
    (captureBit tdo s).cfgBgspi = s.cfgBgspi := rfl
@[simp] theorem captureBit_indPattern (tdo : Bool) (s : State) :
    (captureBit tdo s).indPattern = s.indPattern := rfl
@[simp] theorem captureBit_seqOp (tdo : Bool) (s : State) :
    (captureBit tdo s).seqOp = s.seqOp := rfl
@[simp] theorem captureBit_seqPhase (tdo : Bool) (s : State) :
    (captureBit tdo s).seqPhase = s.seqPhase := rfl
@[simp] theorem captureBit_seqOpcode (tdo : Bool) (s : State) :
    (captureBit tdo s).seqOpcode = s.seqOpcode := rfl
@[simp] theorem captureBit_errLast (tdo : Bool) (s : State) :
    (captureBit tdo s).errLast = s.errLast := rfl
@[simp] theorem captureBit_ghostIr (tdo : Bool) (s : State) :
    (captureBit tdo s).ghostIr = s.ghostIr := rfl
@[simp] theorem captureBit_ghostDrDefined (tdo : Bool) (s : State) :
    (captureBit tdo s).ghostDrDefined = s.ghostDrDefined := rfl
@[simp] theorem captureBit_trace (tdo : Bool) (s : State) :
    (captureBit tdo s).trace = s.trace := rfl
@[simp] theorem captureBit_link (tdo : Bool) (s : State) :
    (captureBit tdo s).link = s.link := rfl
@[simp] theorem captureBit_linkCount (tdo : Bool) (s : State) :
    (captureBit tdo s).linkCount = s.linkCount := rfl
@[simp] theorem captureBit_spi (tdo : Bool) (s : State) :
    (captureBit tdo s).spi = s.spi := rfl
@[simp] theorem captureBit_spiCount (tdo : Bool) (s : State) :
    (captureBit tdo s).spiCount = s.spiCount := rfl
@[simp] theorem captureBit_time (tdo : Bool) (s : State) :
    (captureBit tdo s).time = s.time := rfl
@[simp] theorem captureBit_clock (tdo : Bool) (s : State) :
    (captureBit tdo s).clock = s.clock := rfl
@[simp] theorem captureBit_clockCount (tdo : Bool) (s : State) :
    (captureBit tdo s).clockCount = s.clockCount := rfl
@[simp] theorem captureBit_resets (tdo : Bool) (s : State) :
    (captureBit tdo s).resets = s.resets := rfl

/-! ### `beginCommand` -/

@[simp] theorem beginCommand_hostCmd (op : Option Byte) (s : State) :
    (beginCommand op s).hostCmd = s.hostCmd := rfl
@[simp] theorem beginCommand_hostResp (op : Option Byte) (s : State) :
    (beginCommand op s).hostResp = s.hostResp := rfl
@[simp] theorem beginCommand_tapState (op : Option Byte) (s : State) :
    (beginCommand op s).tapState = s.tapState := rfl
@[simp] theorem beginCommand_tapOwner (op : Option Byte) (s : State) :
    (beginCommand op s).tapOwner = s.tapOwner := rfl
@[simp] theorem beginCommand_tapBitbang (op : Option Byte) (s : State) :
    (beginCommand op s).tapBitbang = s.tapBitbang := rfl
@[simp] theorem beginCommand_shOut (op : Option Byte) (s : State) :
    (beginCommand op s).shOut = s.shOut := rfl
@[simp] theorem beginCommand_shIn (op : Option Byte) (s : State) :
    (beginCommand op s).shIn = s.shIn := rfl
@[simp] theorem beginCommand_rafValid (op : Option Byte) (s : State) :
    (beginCommand op s).rafValid = s.rafValid := rfl
@[simp] theorem beginCommand_rafIw (op : Option Byte) (s : State) :
    (beginCommand op s).rafIw = s.rafIw := rfl
@[simp] theorem beginCommand_rafDw (op : Option Byte) (s : State) :
    (beginCommand op s).rafDw = s.rafDw := rfl
@[simp] theorem beginCommand_cfgActive (op : Option Byte) (s : State) :
    (beginCommand op s).cfgActive = s.cfgActive := rfl
@[simp] theorem beginCommand_cfgPartId (op : Option Byte) (s : State) :
    (beginCommand op s).cfgPartId = s.cfgPartId := rfl
@[simp] theorem beginCommand_cfgIsc (op : Option Byte) (s : State) :
    (beginCommand op s).cfgIsc = s.cfgIsc := rfl
@[simp] theorem beginCommand_cfgBgspi (op : Option Byte) (s : State) :
    (beginCommand op s).cfgBgspi = s.cfgBgspi := rfl
@[simp] theorem beginCommand_indPattern (op : Option Byte) (s : State) :
    (beginCommand op s).indPattern = s.indPattern := rfl
@[simp] theorem beginCommand_seqOp (op : Option Byte) (s : State) :
    (beginCommand op s).seqOp = op := rfl
@[simp] theorem beginCommand_seqPhase (op : Option Byte) (s : State) :
    (beginCommand op s).seqPhase = 0 := rfl
@[simp] theorem beginCommand_seqOpcode (op : Option Byte) (s : State) :
    (beginCommand op s).seqOpcode = 0#8 := rfl
@[simp] theorem beginCommand_errLast (op : Option Byte) (s : State) :
    (beginCommand op s).errLast = s.errLast := rfl
@[simp] theorem beginCommand_ghostIr (op : Option Byte) (s : State) :
    (beginCommand op s).ghostIr = s.ghostIr := rfl
@[simp] theorem beginCommand_ghostDrDefined (op : Option Byte) (s : State) :
    (beginCommand op s).ghostDrDefined = s.ghostDrDefined := rfl
@[simp] theorem beginCommand_trace (op : Option Byte) (s : State) :
    (beginCommand op s).trace = s.trace := rfl
@[simp] theorem beginCommand_link (op : Option Byte) (s : State) :
    (beginCommand op s).link = s.link := rfl
@[simp] theorem beginCommand_linkCount (op : Option Byte) (s : State) :
    (beginCommand op s).linkCount = s.linkCount := rfl
@[simp] theorem beginCommand_spi (op : Option Byte) (s : State) :
    (beginCommand op s).spi = s.spi := rfl
@[simp] theorem beginCommand_spiCount (op : Option Byte) (s : State) :
    (beginCommand op s).spiCount = s.spiCount := rfl
@[simp] theorem beginCommand_time (op : Option Byte) (s : State) :
    (beginCommand op s).time = s.time := rfl
@[simp] theorem beginCommand_clock (op : Option Byte) (s : State) :
    (beginCommand op s).clock = s.clock := rfl
@[simp] theorem beginCommand_clockCount (op : Option Byte) (s : State) :
    (beginCommand op s).clockCount = s.clockCount := rfl
@[simp] theorem beginCommand_resets (op : Option Byte) (s : State) :
    (beginCommand op s).resets = s.resets := rfl

/-! ### `endCommand` -/

@[simp] theorem endCommand_hostCmd (response : List Byte) (s : State) :
    (endCommand response s).hostCmd = none := rfl
@[simp] theorem endCommand_hostResp (response : List Byte) (s : State) :
    (endCommand response s).hostResp = response := rfl
@[simp] theorem endCommand_tapState (response : List Byte) (s : State) :
    (endCommand response s).tapState = s.tapState := rfl
@[simp] theorem endCommand_tapOwner (response : List Byte) (s : State) :
    (endCommand response s).tapOwner = s.tapOwner := rfl
@[simp] theorem endCommand_tapBitbang (response : List Byte) (s : State) :
    (endCommand response s).tapBitbang = s.tapBitbang := rfl
@[simp] theorem endCommand_shOut (response : List Byte) (s : State) :
    (endCommand response s).shOut = s.shOut := rfl
@[simp] theorem endCommand_shIn (response : List Byte) (s : State) :
    (endCommand response s).shIn = s.shIn := rfl
@[simp] theorem endCommand_rafValid (response : List Byte) (s : State) :
    (endCommand response s).rafValid = s.rafValid := rfl
@[simp] theorem endCommand_rafIw (response : List Byte) (s : State) :
    (endCommand response s).rafIw = s.rafIw := rfl
@[simp] theorem endCommand_rafDw (response : List Byte) (s : State) :
    (endCommand response s).rafDw = s.rafDw := rfl
@[simp] theorem endCommand_cfgActive (response : List Byte) (s : State) :
    (endCommand response s).cfgActive = s.cfgActive := rfl
@[simp] theorem endCommand_cfgPartId (response : List Byte) (s : State) :
    (endCommand response s).cfgPartId = s.cfgPartId := rfl
@[simp] theorem endCommand_cfgIsc (response : List Byte) (s : State) :
    (endCommand response s).cfgIsc = s.cfgIsc := rfl
@[simp] theorem endCommand_cfgBgspi (response : List Byte) (s : State) :
    (endCommand response s).cfgBgspi = s.cfgBgspi := rfl
@[simp] theorem endCommand_indPattern (response : List Byte) (s : State) :
    (endCommand response s).indPattern = s.indPattern := rfl
@[simp] theorem endCommand_seqOp (response : List Byte) (s : State) :
    (endCommand response s).seqOp = none := rfl
@[simp] theorem endCommand_seqPhase (response : List Byte) (s : State) :
    (endCommand response s).seqPhase = 0 := rfl
@[simp] theorem endCommand_seqOpcode (response : List Byte) (s : State) :
    (endCommand response s).seqOpcode = 0#8 := rfl
@[simp] theorem endCommand_errLast (response : List Byte) (s : State) :
    (endCommand response s).errLast = s.errLast := rfl
@[simp] theorem endCommand_ghostIr (response : List Byte) (s : State) :
    (endCommand response s).ghostIr = s.ghostIr := rfl
@[simp] theorem endCommand_ghostDrDefined (response : List Byte) (s : State) :
    (endCommand response s).ghostDrDefined = s.ghostDrDefined := rfl
@[simp] theorem endCommand_trace (response : List Byte) (s : State) :
    (endCommand response s).trace = s.trace := rfl
@[simp] theorem endCommand_link (response : List Byte) (s : State) :
    (endCommand response s).link = s.link := rfl
@[simp] theorem endCommand_linkCount (response : List Byte) (s : State) :
    (endCommand response s).linkCount = s.linkCount := rfl
@[simp] theorem endCommand_spi (response : List Byte) (s : State) :
    (endCommand response s).spi = s.spi := rfl
@[simp] theorem endCommand_spiCount (response : List Byte) (s : State) :
    (endCommand response s).spiCount = s.spiCount := rfl
@[simp] theorem endCommand_time (response : List Byte) (s : State) :
    (endCommand response s).time = s.time := rfl
@[simp] theorem endCommand_clock (response : List Byte) (s : State) :
    (endCommand response s).clock = s.clock := rfl
@[simp] theorem endCommand_clockCount (response : List Byte) (s : State) :
    (endCommand response s).clockCount = s.clockCount := rfl
@[simp] theorem endCommand_resets (response : List Byte) (s : State) :
    (endCommand response s).resets = s.resets := rfl

/-! ### `takeError` -/

@[simp] theorem takeError_hostCmd (e : ErrorRecord) (s : State) :
    (takeError e s).hostCmd = none := rfl
@[simp] theorem takeError_hostResp (e : ErrorRecord) (s : State) :
    (takeError e s).hostResp = errorResponse e := rfl
@[simp] theorem takeError_tapState (e : ErrorRecord) (s : State) :
    (takeError e s).tapState = s.tapState := rfl
@[simp] theorem takeError_tapOwner (e : ErrorRecord) (s : State) :
    (takeError e s).tapOwner = s.tapOwner := rfl
@[simp] theorem takeError_tapBitbang (e : ErrorRecord) (s : State) :
    (takeError e s).tapBitbang = s.tapBitbang := rfl
@[simp] theorem takeError_shOut (e : ErrorRecord) (s : State) :
    (takeError e s).shOut = s.shOut := rfl
@[simp] theorem takeError_shIn (e : ErrorRecord) (s : State) :
    (takeError e s).shIn = s.shIn := rfl
@[simp] theorem takeError_rafValid (e : ErrorRecord) (s : State) :
    (takeError e s).rafValid = s.rafValid := rfl
@[simp] theorem takeError_rafIw (e : ErrorRecord) (s : State) :
    (takeError e s).rafIw = s.rafIw := rfl
@[simp] theorem takeError_rafDw (e : ErrorRecord) (s : State) :
    (takeError e s).rafDw = s.rafDw := rfl
@[simp] theorem takeError_cfgActive (e : ErrorRecord) (s : State) :
    (takeError e s).cfgActive = s.cfgActive := rfl
@[simp] theorem takeError_cfgPartId (e : ErrorRecord) (s : State) :
    (takeError e s).cfgPartId = s.cfgPartId := rfl
@[simp] theorem takeError_cfgIsc (e : ErrorRecord) (s : State) :
    (takeError e s).cfgIsc = s.cfgIsc := rfl
@[simp] theorem takeError_cfgBgspi (e : ErrorRecord) (s : State) :
    (takeError e s).cfgBgspi = s.cfgBgspi := rfl
@[simp] theorem takeError_indPattern (e : ErrorRecord) (s : State) :
    (takeError e s).indPattern = s.indPattern := rfl
@[simp] theorem takeError_seqOp (e : ErrorRecord) (s : State) :
    (takeError e s).seqOp = none := rfl
@[simp] theorem takeError_seqPhase (e : ErrorRecord) (s : State) :
    (takeError e s).seqPhase = 0 := rfl
@[simp] theorem takeError_seqOpcode (e : ErrorRecord) (s : State) :
    (takeError e s).seqOpcode = 0#8 := rfl
@[simp] theorem takeError_errLast (e : ErrorRecord) (s : State) :
    (takeError e s).errLast = some e := rfl
@[simp] theorem takeError_ghostIr (e : ErrorRecord) (s : State) :
    (takeError e s).ghostIr = s.ghostIr := rfl
@[simp] theorem takeError_ghostDrDefined (e : ErrorRecord) (s : State) :
    (takeError e s).ghostDrDefined = s.ghostDrDefined := rfl
@[simp] theorem takeError_trace (e : ErrorRecord) (s : State) :
    (takeError e s).trace = s.trace := rfl
@[simp] theorem takeError_link (e : ErrorRecord) (s : State) :
    (takeError e s).link = s.link := rfl
@[simp] theorem takeError_linkCount (e : ErrorRecord) (s : State) :
    (takeError e s).linkCount = s.linkCount := rfl
@[simp] theorem takeError_spi (e : ErrorRecord) (s : State) :
    (takeError e s).spi = s.spi := rfl
@[simp] theorem takeError_spiCount (e : ErrorRecord) (s : State) :
    (takeError e s).spiCount = s.spiCount := rfl
@[simp] theorem takeError_time (e : ErrorRecord) (s : State) :
    (takeError e s).time = s.time := rfl
@[simp] theorem takeError_clock (e : ErrorRecord) (s : State) :
    (takeError e s).clock = s.clock := rfl
@[simp] theorem takeError_clockCount (e : ErrorRecord) (s : State) :
    (takeError e s).clockCount = s.clockCount := rfl
@[simp] theorem takeError_resets (e : ErrorRecord) (s : State) :
    (takeError e s).resets = s.resets := rfl

/-! ### `finishCommand` -/

@[simp] theorem finishCommand_hostCmd (data : List Byte) (s : State) :
    (finishCommand data s).hostCmd = none := rfl
@[simp] theorem finishCommand_hostResp (data : List Byte) (s : State) :
    (finishCommand data s).hostResp = okResponse data := rfl
@[simp] theorem finishCommand_tapState (data : List Byte) (s : State) :
    (finishCommand data s).tapState = s.tapState := rfl
@[simp] theorem finishCommand_tapOwner (data : List Byte) (s : State) :
    (finishCommand data s).tapOwner = s.tapOwner := rfl
@[simp] theorem finishCommand_tapBitbang (data : List Byte) (s : State) :
    (finishCommand data s).tapBitbang = s.tapBitbang := rfl
@[simp] theorem finishCommand_shOut (data : List Byte) (s : State) :
    (finishCommand data s).shOut = s.shOut := rfl
@[simp] theorem finishCommand_shIn (data : List Byte) (s : State) :
    (finishCommand data s).shIn = s.shIn := rfl
@[simp] theorem finishCommand_rafValid (data : List Byte) (s : State) :
    (finishCommand data s).rafValid = s.rafValid := rfl
@[simp] theorem finishCommand_rafIw (data : List Byte) (s : State) :
    (finishCommand data s).rafIw = s.rafIw := rfl
@[simp] theorem finishCommand_rafDw (data : List Byte) (s : State) :
    (finishCommand data s).rafDw = s.rafDw := rfl
@[simp] theorem finishCommand_cfgActive (data : List Byte) (s : State) :
    (finishCommand data s).cfgActive = s.cfgActive := rfl
@[simp] theorem finishCommand_cfgPartId (data : List Byte) (s : State) :
    (finishCommand data s).cfgPartId = s.cfgPartId := rfl
@[simp] theorem finishCommand_cfgIsc (data : List Byte) (s : State) :
    (finishCommand data s).cfgIsc = s.cfgIsc := rfl
@[simp] theorem finishCommand_cfgBgspi (data : List Byte) (s : State) :
    (finishCommand data s).cfgBgspi = s.cfgBgspi := rfl
@[simp] theorem finishCommand_indPattern (data : List Byte) (s : State) :
    (finishCommand data s).indPattern = s.indPattern := rfl
@[simp] theorem finishCommand_seqOp (data : List Byte) (s : State) :
    (finishCommand data s).seqOp = none := rfl
@[simp] theorem finishCommand_seqPhase (data : List Byte) (s : State) :
    (finishCommand data s).seqPhase = 0 := rfl
@[simp] theorem finishCommand_seqOpcode (data : List Byte) (s : State) :
    (finishCommand data s).seqOpcode = 0#8 := rfl
@[simp] theorem finishCommand_errLast (data : List Byte) (s : State) :
    (finishCommand data s).errLast = s.errLast := rfl
@[simp] theorem finishCommand_ghostIr (data : List Byte) (s : State) :
    (finishCommand data s).ghostIr = s.ghostIr := rfl
@[simp] theorem finishCommand_ghostDrDefined (data : List Byte) (s : State) :
    (finishCommand data s).ghostDrDefined = s.ghostDrDefined := rfl
@[simp] theorem finishCommand_trace (data : List Byte) (s : State) :
    (finishCommand data s).trace = s.trace := rfl
@[simp] theorem finishCommand_link (data : List Byte) (s : State) :
    (finishCommand data s).link = s.link := rfl
@[simp] theorem finishCommand_linkCount (data : List Byte) (s : State) :
    (finishCommand data s).linkCount = s.linkCount := rfl
@[simp] theorem finishCommand_spi (data : List Byte) (s : State) :
    (finishCommand data s).spi = s.spi := rfl
@[simp] theorem finishCommand_spiCount (data : List Byte) (s : State) :
    (finishCommand data s).spiCount = s.spiCount := rfl
@[simp] theorem finishCommand_time (data : List Byte) (s : State) :
    (finishCommand data s).time = s.time := rfl
@[simp] theorem finishCommand_clock (data : List Byte) (s : State) :
    (finishCommand data s).clock = s.clock := rfl
@[simp] theorem finishCommand_clockCount (data : List Byte) (s : State) :
    (finishCommand data s).clockCount = s.clockCount := rfl
@[simp] theorem finishCommand_resets (data : List Byte) (s : State) :
    (finishCommand data s).resets = s.resets := rfl

/-! ### `countdown` -/

@[simp] theorem countdown_hostCmd (s : State) :
    (countdown s).hostCmd = s.hostCmd := rfl
@[simp] theorem countdown_hostResp (s : State) :
    (countdown s).hostResp = s.hostResp := rfl
@[simp] theorem countdown_tapState (s : State) :
    (countdown s).tapState = s.tapState := rfl
@[simp] theorem countdown_tapOwner (s : State) :
    (countdown s).tapOwner = s.tapOwner := rfl
@[simp] theorem countdown_tapBitbang (s : State) :
    (countdown s).tapBitbang = s.tapBitbang := rfl
@[simp] theorem countdown_shOut (s : State) :
    (countdown s).shOut = s.shOut := rfl
@[simp] theorem countdown_shIn (s : State) :
    (countdown s).shIn = s.shIn := rfl
@[simp] theorem countdown_rafValid (s : State) :
    (countdown s).rafValid = s.rafValid := rfl
@[simp] theorem countdown_rafIw (s : State) :
    (countdown s).rafIw = s.rafIw := rfl
@[simp] theorem countdown_rafDw (s : State) :
    (countdown s).rafDw = s.rafDw := rfl
@[simp] theorem countdown_cfgActive (s : State) :
    (countdown s).cfgActive = s.cfgActive := rfl
@[simp] theorem countdown_cfgPartId (s : State) :
    (countdown s).cfgPartId = s.cfgPartId := rfl
@[simp] theorem countdown_cfgIsc (s : State) :
    (countdown s).cfgIsc = s.cfgIsc := rfl
@[simp] theorem countdown_cfgBgspi (s : State) :
    (countdown s).cfgBgspi = s.cfgBgspi := rfl
@[simp] theorem countdown_indPattern (s : State) :
    (countdown s).indPattern = s.indPattern := rfl
@[simp] theorem countdown_seqOp (s : State) :
    (countdown s).seqOp = s.seqOp := rfl
@[simp] theorem countdown_seqPhase (s : State) :
    (countdown s).seqPhase = s.seqPhase := rfl
@[simp] theorem countdown_seqOpcode (s : State) :
    (countdown s).seqOpcode = s.seqOpcode := rfl
@[simp] theorem countdown_errLast (s : State) :
    (countdown s).errLast = s.errLast := rfl
@[simp] theorem countdown_ghostIr (s : State) :
    (countdown s).ghostIr = s.ghostIr := rfl
@[simp] theorem countdown_ghostDrDefined (s : State) :
    (countdown s).ghostDrDefined = s.ghostDrDefined := rfl
@[simp] theorem countdown_trace (s : State) :
    (countdown s).trace = s.trace := rfl
@[simp] theorem countdown_link (s : State) :
    (countdown s).link = s.link := rfl
@[simp] theorem countdown_linkCount (s : State) :
    (countdown s).linkCount = s.linkCount := rfl
@[simp] theorem countdown_spi (s : State) :
    (countdown s).spi = s.spi := rfl
@[simp] theorem countdown_spiCount (s : State) :
    (countdown s).spiCount = s.spiCount := rfl
@[simp] theorem countdown_time (s : State) :
    (countdown s).time = s.time := rfl
@[simp] theorem countdown_clock (s : State) :
    (countdown s).clock = s.clock := rfl
@[simp] theorem countdown_clockCount (s : State) :
    (countdown s).clockCount = s.clockCount := rfl
@[simp] theorem countdown_resets (s : State) :
    (countdown s).resets = stepsLeft s.resets := rfl

/-! ### `assertReset` -/

@[simp] theorem assertReset_hostCmd (s : State) :
    (assertReset s).hostCmd = State.reset.hostCmd := rfl
@[simp] theorem assertReset_hostResp (s : State) :
    (assertReset s).hostResp = State.reset.hostResp := rfl
@[simp] theorem assertReset_tapState (s : State) :
    (assertReset s).tapState = State.reset.tapState := rfl
@[simp] theorem assertReset_tapOwner (s : State) :
    (assertReset s).tapOwner = State.reset.tapOwner := rfl
@[simp] theorem assertReset_tapBitbang (s : State) :
    (assertReset s).tapBitbang = State.reset.tapBitbang := rfl
@[simp] theorem assertReset_shOut (s : State) :
    (assertReset s).shOut = State.reset.shOut := rfl
@[simp] theorem assertReset_shIn (s : State) :
    (assertReset s).shIn = State.reset.shIn := rfl
@[simp] theorem assertReset_rafValid (s : State) :
    (assertReset s).rafValid = State.reset.rafValid := rfl
@[simp] theorem assertReset_rafIw (s : State) :
    (assertReset s).rafIw = State.reset.rafIw := rfl
@[simp] theorem assertReset_rafDw (s : State) :
    (assertReset s).rafDw = State.reset.rafDw := rfl
@[simp] theorem assertReset_cfgActive (s : State) :
    (assertReset s).cfgActive = State.reset.cfgActive := rfl
@[simp] theorem assertReset_cfgPartId (s : State) :
    (assertReset s).cfgPartId = State.reset.cfgPartId := rfl
@[simp] theorem assertReset_cfgIsc (s : State) :
    (assertReset s).cfgIsc = State.reset.cfgIsc := rfl
@[simp] theorem assertReset_cfgBgspi (s : State) :
    (assertReset s).cfgBgspi = State.reset.cfgBgspi := rfl
@[simp] theorem assertReset_indPattern (s : State) :
    (assertReset s).indPattern = State.reset.indPattern := rfl
@[simp] theorem assertReset_seqOp (s : State) :
    (assertReset s).seqOp = State.reset.seqOp := rfl
@[simp] theorem assertReset_seqPhase (s : State) :
    (assertReset s).seqPhase = State.reset.seqPhase := rfl
@[simp] theorem assertReset_seqOpcode (s : State) :
    (assertReset s).seqOpcode = State.reset.seqOpcode := rfl
@[simp] theorem assertReset_errLast (s : State) :
    (assertReset s).errLast = State.reset.errLast := rfl
@[simp] theorem assertReset_ghostIr (s : State) :
    (assertReset s).ghostIr = State.reset.ghostIr := rfl
@[simp] theorem assertReset_ghostDrDefined (s : State) :
    (assertReset s).ghostDrDefined = State.reset.ghostDrDefined := rfl
@[simp] theorem assertReset_trace (s : State) :
    (assertReset s).trace = s.trace := rfl
@[simp] theorem assertReset_link (s : State) :
    (assertReset s).link = s.link := rfl
@[simp] theorem assertReset_linkCount (s : State) :
    (assertReset s).linkCount = s.linkCount := rfl
@[simp] theorem assertReset_spi (s : State) :
    (assertReset s).spi = s.spi := rfl
@[simp] theorem assertReset_spiCount (s : State) :
    (assertReset s).spiCount = s.spiCount := rfl
@[simp] theorem assertReset_time (s : State) :
    (assertReset s).time = s.time := rfl
@[simp] theorem assertReset_clock (s : State) :
    (assertReset s).clock = s.clock := rfl
@[simp] theorem assertReset_clockCount (s : State) :
    (assertReset s).clockCount = s.clockCount := rfl
@[simp] theorem assertReset_resets (s : State) :
    (assertReset s).resets = s.resets.tail := rfl

/-! ### `present` -/

@[simp] theorem present_hostCmd (frame : CommandFrame) (s : State) :
    (present frame s).hostCmd = some frame := rfl
@[simp] theorem present_hostResp (frame : CommandFrame) (s : State) :
    (present frame s).hostResp = s.hostResp := rfl
@[simp] theorem present_tapState (frame : CommandFrame) (s : State) :
    (present frame s).tapState = s.tapState := rfl
@[simp] theorem present_tapOwner (frame : CommandFrame) (s : State) :
    (present frame s).tapOwner = s.tapOwner := rfl
@[simp] theorem present_tapBitbang (frame : CommandFrame) (s : State) :
    (present frame s).tapBitbang = s.tapBitbang := rfl
@[simp] theorem present_shOut (frame : CommandFrame) (s : State) :
    (present frame s).shOut = s.shOut := rfl
@[simp] theorem present_shIn (frame : CommandFrame) (s : State) :
    (present frame s).shIn = s.shIn := rfl
@[simp] theorem present_rafValid (frame : CommandFrame) (s : State) :
    (present frame s).rafValid = s.rafValid := rfl
@[simp] theorem present_rafIw (frame : CommandFrame) (s : State) :
    (present frame s).rafIw = s.rafIw := rfl
@[simp] theorem present_rafDw (frame : CommandFrame) (s : State) :
    (present frame s).rafDw = s.rafDw := rfl
@[simp] theorem present_cfgActive (frame : CommandFrame) (s : State) :
    (present frame s).cfgActive = s.cfgActive := rfl
@[simp] theorem present_cfgPartId (frame : CommandFrame) (s : State) :
    (present frame s).cfgPartId = s.cfgPartId := rfl
@[simp] theorem present_cfgIsc (frame : CommandFrame) (s : State) :
    (present frame s).cfgIsc = s.cfgIsc := rfl
@[simp] theorem present_cfgBgspi (frame : CommandFrame) (s : State) :
    (present frame s).cfgBgspi = s.cfgBgspi := rfl
@[simp] theorem present_indPattern (frame : CommandFrame) (s : State) :
    (present frame s).indPattern = s.indPattern := rfl
@[simp] theorem present_seqOp (frame : CommandFrame) (s : State) :
    (present frame s).seqOp = s.seqOp := rfl
@[simp] theorem present_seqPhase (frame : CommandFrame) (s : State) :
    (present frame s).seqPhase = s.seqPhase := rfl
@[simp] theorem present_seqOpcode (frame : CommandFrame) (s : State) :
    (present frame s).seqOpcode = s.seqOpcode := rfl
@[simp] theorem present_errLast (frame : CommandFrame) (s : State) :
    (present frame s).errLast = s.errLast := rfl
@[simp] theorem present_ghostIr (frame : CommandFrame) (s : State) :
    (present frame s).ghostIr = s.ghostIr := rfl
@[simp] theorem present_ghostDrDefined (frame : CommandFrame) (s : State) :
    (present frame s).ghostDrDefined = s.ghostDrDefined := rfl
@[simp] theorem present_trace (frame : CommandFrame) (s : State) :
    (present frame s).trace = s.trace := rfl
@[simp] theorem present_link (frame : CommandFrame) (s : State) :
    (present frame s).link = s.link := rfl
@[simp] theorem present_linkCount (frame : CommandFrame) (s : State) :
    (present frame s).linkCount = s.linkCount := rfl
@[simp] theorem present_spi (frame : CommandFrame) (s : State) :
    (present frame s).spi = s.spi := rfl
@[simp] theorem present_spiCount (frame : CommandFrame) (s : State) :
    (present frame s).spiCount = s.spiCount := rfl
@[simp] theorem present_time (frame : CommandFrame) (s : State) :
    (present frame s).time = s.time := rfl
@[simp] theorem present_clock (frame : CommandFrame) (s : State) :
    (present frame s).clock = s.clock := rfl
@[simp] theorem present_clockCount (frame : CommandFrame) (s : State) :
    (present frame s).clockCount = s.clockCount := rfl
@[simp] theorem present_resets (frame : CommandFrame) (s : State) :
    (present frame s).resets = s.resets := rfl

end Sys2Proof.Machine
end

