-- ==== Sys2Proof/Laws/Engine.lean ====
section
/-! SUPPORT. How the engine's operations run on a state: sequencing, the primitives, and what each
shared operation of Machine/Ops.lean answers. -/

namespace Sys2Proof.Machine

variable {α β : Type}

/-! ### Sequencing -/

theorem bind_run (m : Engine α) (f : α → Engine β) (s : State) :
    (m >>= f) s = match m s with
      | .ok x s' => f x s'
      | .error e s' => .error e s' := by
  change EStateM.bind m f s = _
  unfold EStateM.bind
  cases m s <;> rfl

@[simp] theorem pure_run (x : α) (s : State) : (pure x : Engine α) s = .ok x s := rfl

theorem bind_ok {m : Engine α} {f : α → Engine β} {s s' : State} {x : α} (h : m s = .ok x s') :
    (m >>= f) s = f x s' := by rw [bind_run, h]

theorem bind_error {m : Engine α} {f : α → Engine β} {s s' : State} {e : Abort}
    (h : m s = .error e s') : (m >>= f) s = .error e s' := by rw [bind_run, h]

/-! ### Primitives -/

@[simp] theorem update_run (change : State → State) (s : State) :
    update change s = .ok () (change s) := rfl

@[simp] theorem observe_run (read : State → α) (s : State) : observe read s = .ok (read s) s := rfl

@[simp] theorem raise_run (r : Raise) (s : State) :
    (raise r : Engine α) s = .error (.raised r (errorRecord r s)) s := rfl

@[simp] theorem abortWith_run (e : Abort) (s : State) :
    (abortWith e : Engine α) s = .error e s := rfl

theorem refuseIf_run (condition : Bool) (d : RefusedDetail) (s : State) :
    refuseIf condition d s = if condition then
      .error (.raised (.refused d) (errorRecord (.refused d) s)) s else .ok () s := by
  cases condition <;> rfl

@[simp] theorem refuseIf_false (d : RefusedDetail) (s : State) :
    refuseIf false d s = .ok () s := rfl

@[simp] theorem refuseIf_true (d : RefusedDetail) (s : State) :
    refuseIf true d s = .error (.raised (.refused d) (errorRecord (.refused d) s)) s := rfl

@[simp] theorem runIf_false (body : Engine Unit) (s : State) : runIf false body s = .ok () s := rfl

@[simp] theorem runIf_true (body : Engine Unit) (s : State) : runIf true body s = body s := rfl

@[simp] theorem takeOperands_ok (x : α) (s : State) :
    takeOperands (.ok x : Operand α) s = .ok x s := rfl

@[simp] theorem takeOperands_error (d : RefusedDetail) (s : State) :
    takeOperands (.error d : Operand α) s
      = .error (.raised (.refused d) (errorRecord (.refused d) s)) s := rfl

@[simp] theorem setPhase_run (p : Nat) (s : State) :
    setPhase p s = .ok () { s with seqPhase := p } := rfl

@[simp] theorem setOpcode_run (b : Byte) (s : State) :
    setOpcode b s = .ok () { s with seqOpcode := b } := rfl

@[simp] theorem setPattern_run (p : Nat) (s : State) :
    setPattern p s = .ok () { s with indPattern := p } := rfl

/-! ### Primitive steps -/

theorem countdown_undisturbed {s : State} (h : s.resets = []) : countdown s = s := by
  cases s; cases h; rfl

/-- R290: all that a primitive step can do. -/
theorem primitive_run (act : Engine α) (s : State) :
    primitive act s = if resetDue s then .error .reset s else act (countdown s) := rfl

/-- Where reset is not asserted any more, a primitive step is what it does. -/
theorem primitive_undisturbed (act : Engine α) {s : State} (h : s.resets = []) :
    primitive act s = act s := by
  rw [primitive_run, countdown_undisturbed h]; simp [resetDue, h]

/-- R290 (3): where reset is asserted, it does nothing. -/
theorem primitive_reset (act : Engine α) {s : State} {later : List Nat}
    (h : s.resets = 0 :: later) : primitive act s = .error .reset s := by
  rw [primitive_run]; simp [resetDue, h]

theorem delay_run (t : Nat) {s : State} (h : s.resets = []) :
    delay t s = .ok () { s with trace := .delay t :: s.trace, time := s.time + t } :=
  primitive_undisturbed _ h

theorem now_run {s : State} (h : s.resets = []) :
    now s = .ok (s.time + clockAdvance s)
      { s with
        trace := .clockRead (s.time + clockAdvance s) :: s.trace
        time := s.time + clockAdvance s
        clock := s.clock.tail
        clockCount := s.clockCount + 1 } := primitive_undisturbed _ h

theorem warn_run (w : Warning) {s : State} (h : s.resets = []) :
    warn w s = .ok () { s with trace := .warn w :: s.trace } := primitive_undisturbed _ h

theorem indicator_run (p : Nat) {s : State} (h : s.resets = []) :
    indicator p s = .ok () { s with trace := .indicator p :: s.trace } := primitive_undisturbed _ h

theorem programPulse_run {s : State} (h : s.resets = []) :
    programPulse s = .ok () { s with trace := .programPulse :: s.trace } :=
  primitive_undisturbed _ h

/-- R52, R262: all that a link exchange can do. -/
theorem linkExchange_run (tms tdi : Bool) (s : State) :
    linkExchange tms tdi s = match linkAnswer s with
      | .bit tdo => .ok tdo (afterTick tms tdi tdo s)
      | .notSupported => .error (.raised .notSupported (errorRecord .notSupported s)) (nextLink s)
      | .io => .error (.raised (.transportError .linkIo) (errorRecord (.transportError .linkIo) s))
          (nextLink s)
      | .timeout =>
        .error (.raised (.transportError .linkTimeout)
          (errorRecord (.transportError .linkTimeout) s)) (nextLink s)
      | .malformed =>
        .error (.raised (.transportError .malformed)
          (errorRecord (.transportError .malformed) s)) (nextLink s) := by
  unfold linkExchange; cases linkAnswer s <;> rfl

/-- R52: a tick that the link answers with a bit. -/
theorem tick_bit {tms tdi tdo : Bool} {s : State} (hr : s.resets = [])
    (h : linkAnswer s = .bit tdo) :
    tick tms tdi s = .ok tdo (afterTick tms tdi tdo s) := by
  rw [tick, primitive_undisturbed _ hr, linkExchange_run, h]

/-! ### Cleanup -/

theorem withCleanup_ok {body : Engine α} {cleanup : Bool → Engine Unit} {s s' s'' : State} {x : α}
    (hb : body s = .ok x s') (hc : cleanup false s' = .ok () s'') :
    withCleanup body cleanup s = .ok x s'' := by simp [withCleanup, hb, hc]

theorem withCleanup_cleanup_error {body : Engine α} {cleanup : Bool → Engine Unit}
    {s s' s'' : State} {x : α} {e : Abort}
    (hb : body s = .ok x s') (hc : cleanup false s' = .error e s'') :
    withCleanup body cleanup s = .error e s'' := by simp [withCleanup, hb, hc]

/-- R266: where the body raised, its own error comes out, whatever the cleanup block raises. -/
theorem withCleanup_raised {body : Engine α} {cleanup : Bool → Engine Unit} {s s' : State}
    {r : Raise} {e : ErrorRecord} (hb : body s = .error (.raised r e) s') :
    withCleanup body cleanup s = match cleanup true s' with
      | .ok _ s'' => .error (.raised r e) s''
      | .error (.raised _ _) s'' => .error (.raised r e) s''
      | .error e' s'' => .error e' s'' := by
  simp only [withCleanup, hb] <;> (rcases cleanup true s' with _ | ⟨e, _⟩ <;> try cases e) <;> rfl

/-- R290 (3): a reset runs no cleanup block. -/
theorem withCleanup_reset {body : Engine α} {cleanup : Bool → Engine Unit} {s s' : State}
    (hb : body s = .error .reset s') : withCleanup body cleanup s = .error .reset s' := by
  simp only [withCleanup, hb]

/-! ### The command cycle -/

/-- R135: a value that fits a response field is exact there. -/
theorem responseField_fits {width value : Nat} (h : value < 2 ^ width) :
    responseField width value = BitVec.ofNat width value := if_pos h

theorem responseField_toNat {width value : Nat} (h : value < 2 ^ width) :
    (responseField width value).toNat = value := by
  rw [responseField_fits h, BitVec.toNat_ofNat, Nat.mod_eq_of_lt h]

/-- R101: a host operation while the session is open runs its body. -/
theorem ownedCommand_owner (op : Byte) (body : Engine (List Byte)) (s : State)
    (h : s.tapOwner = true) :
    ownedCommand op body s = commandOutcome (body (beginCommand (some op) s)) := by
  simp [ownedCommand, commandCycle, requireOwner, bind_run, h]

/-- R142: and is refused while it is not. -/
theorem ownedCommand_not_owner (op : Byte) (body : Engine (List Byte)) (s : State)
    (h : s.tapOwner = false) :
    ownedCommand op body s = .next (takeError
      (errorRecord (.refused .notOwner) (beginCommand (some op) s)) (beginCommand (some op) s)) := by
  simp [ownedCommand, commandCycle, requireOwner, bind_run, h, commandOutcome]

theorem issuedCommand_owner (body : Engine (List Byte)) (s : State) (h : s.tapOwner = true) :
    issuedCommand body s = commandOutcome (body (beginCommand none s)) := by
  simp [issuedCommand, commandCycle, requireOwner, bind_run, h]

theorem issuedCommand_not_owner (body : Engine (List Byte)) (s : State) (h : s.tapOwner = false) :
    issuedCommand body s = .next (takeError
      (errorRecord (.refused .notOwner) (beginCommand none s)) (beginCommand none s)) := by
  simp [issuedCommand, commandCycle, requireOwner, bind_run, h, commandOutcome]

end Sys2Proof.Machine
end

