-- ==== Sys2Proof/Laws/Abandon.lean ====
section
/-! SUPPORT. How the engine's operations meet the reset input (spec/70_reset_and_hazards.md R290):
an operation makes some number of primitive steps; an assertion of reset after them leaves it as it
is, and one before any of them stops it there. -/

namespace Sys2Proof.Machine

variable {α β : Type}

/-- The state an operation ends in, on every way it can end. -/
def endState : EStateM.Result Abort State α → State
  | .ok _ t => t
  | .error _ t => t

/-- The same end, in a changed state. -/
def mapEnd (change : State → State) :
    EStateM.Result Abort State α → EStateM.Result Abort State α
  | .ok x t => .ok x (change t)
  | .error e t => .error e (change t)

@[simp] theorem endState_mapEnd (change : State → State) (r : EStateM.Result Abort State α) :
    endState (mapEnd change r) = change (endState r) := by cases r <;> rfl

/-- A piece of an operation that counts no primitive step: it does not see the reset input, is not
abandoned, and records at most so many events. -/
structure Atomic (limit : Nat) (m : Engine α) : Prop where
  run : ∀ s resets, m (withResets resets s) = mapEnd (withResets resets) (m s)
  ends : ∀ s t, m s ≠ .error .reset t
  grows : ∀ s, ∃ events, (endState (m s)).trace = events ++ s.trace ∧ events.length ≤ limit

/-- How an operation that makes `n` primitive steps from a state, without reset, meets reset. -/
structure Interrupts (m : Engine α) (s : State) (n : Nat) : Prop where
  quiet : (endState (m s)).resets = []
  ends : ∀ t, m s ≠ .error .reset t
  grows : ∃ events, (endState (m s)).trace = events ++ s.trace ∧ events.length ≤ n
  spared : ∀ k later, n ≤ k →
    m (withResets (k :: later) s) = mapEnd (withResets ((k - n) :: later)) (m s)
  stopped : ∀ k later, k < n → ∃ t made missing, m (withResets (k :: later) s) = .error .reset t
    ∧ t.resets = 0 :: later ∧ t.trace = made ++ s.trace ∧ made.length ≤ k
    ∧ (endState (m s)).trace = missing ++ t.trace

/-- R290: from every state an operation makes some number of primitive steps, and meets reset
accordingly. -/
def Interruptible (m : Engine α) : Prop := ∀ s, s.resets = [] → ∃ n, Interrupts m s n

/-! ### What an operation is made of -/

theorem Atomic.resets {limit : Nat} {m : Engine α} (h : Atomic limit m) (s : State) :
    (endState (m s)).resets = s.resets := by
  have := congrArg (fun r => (endState r).resets) (h.run s s.resets)
  simpa [withResets] using this

theorem Interruptible.atomic {m : Engine α} (h : Atomic 0 m) : Interruptible m := fun s hs =>
  ⟨0, (h.resets s).trans hs, h.ends s, h.grows s, fun k later _ => h.run s (k :: later),
    fun _ _ hk => absurd hk (Nat.not_lt_zero _)⟩

/-- R290 (3): a primitive step is made, or reset comes instead of it. -/
theorem Interruptible.primitive {act : Engine α} (h : Atomic 1 act) :
    Interruptible (Machine.primitive act) := by
  intro s hs
  have hr : Machine.primitive act s = act s := primitive_undisturbed act hs
  refine ⟨1, ?_, ?_, ?_, fun k later hk => ?_, fun k later hk => ?_⟩
  · rw [hr, h.resets, hs]
  · rw [hr]; exact h.ends s
  · rw [hr]; exact h.grows s
  · obtain ⟨k, rfl⟩ : ∃ k', k = k' + 1 := ⟨k - 1, by omega⟩
    rw [hr]
    exact h.run s (k :: later)
  · obtain rfl : k = 0 := by omega
    obtain ⟨events, h1, -⟩ := h.grows s
    exact ⟨_, [], events, primitive_reset act (later := later) rfl, rfl, rfl, Nat.le_refl _,
      by rw [hr, h1]; rfl⟩

theorem Interruptible.bind {m : Engine α} {f : α → Engine β} (hm : Interruptible m)
    (hf : ∀ x, Interruptible (f x)) : Interruptible (m >>= f) := by
  intro s hs
  obtain ⟨n, h⟩ := hm s hs
  cases hr : m s with
  | error e t =>
    have e1 : (m >>= f) s = .error e t := by rw [bind_run, hr]
    have hq := h.quiet
    have he := h.ends
    have hg := h.grows
    rw [hr] at hq he hg
    refine ⟨n, by rw [e1]; exact hq, ?_, by rw [e1]; exact hg, fun k later hk => ?_,
      fun k later hk => ?_⟩
    · rw [e1]; intro u hu; cases hu; exact he _ rfl
    · rw [e1, bind_run, h.spared k later hk, hr]; rfl
    · obtain ⟨u, made, missing, h1, h2, h3, h4, h5⟩ := h.stopped k later hk
      rw [hr] at h5
      exact ⟨u, made, missing, by rw [bind_run, h1], h2, h3, h4, by rw [e1]; exact h5⟩
  | ok x t =>
    have e1 : (m >>= f) s = f x t := by rw [bind_run, hr]
    have hq := h.quiet
    have hg := h.grows
    rw [hr] at hq hg
    obtain ⟨n', h'⟩ := hf x t hq
    obtain ⟨events, g1, g2⟩ := hg
    obtain ⟨events', g1', g2'⟩ := h'.grows
    refine ⟨n + n', by rw [e1]; exact h'.quiet, by rw [e1]; exact h'.ends,
      ⟨events' ++ events, ?_, ?_⟩, fun k later hk => ?_, fun k later hk => ?_⟩
    · rw [e1, g1', List.append_assoc]; exact congrArg _ g1
    · rw [List.length_append]; omega
    · have := h.spared k later (by omega)
      rw [hr] at this
      rw [e1, bind_run, this, mapEnd]
      simp only
      rw [h'.spared (k - n) later (by omega), Nat.sub_sub]
    · rcases Nat.lt_or_ge k n with hn | hn
      · obtain ⟨u, made, missing, h1, h2, h3, h4, h5⟩ := h.stopped k later hn
        rw [hr] at h5
        refine ⟨u, made, events' ++ missing, by rw [bind_run, h1], h2, h3, h4, ?_⟩
        rw [e1, g1', List.append_assoc]; exact congrArg _ h5
      · obtain ⟨u, made, missing, h1, h2, h3, h4, h5⟩ := h'.stopped (k - n) later (by omega)
        have := h.spared k later hn
        rw [hr] at this
        refine ⟨u, made ++ events, missing, ?_, h2, ?_, ?_, by rw [e1]; exact h5⟩
        · rw [bind_run, this, mapEnd]; exact h1
        · rw [h3, List.append_assoc]; exact congrArg _ g1
        · rw [List.length_append]; omega

theorem Interruptible.ite {c : Prop} [Decidable c] {a b : Engine α} (ha : Interruptible a)
    (hb : Interruptible b) : Interruptible (if c then a else b) := by split <;> assumption

theorem Interruptible.pure (x : α) : Interruptible (pure x : Engine α) := by
  refine .atomic ⟨fun s resets => ?_, fun s t h => ?_, fun s => ⟨[], ?_, Nat.le_refl _⟩⟩
  · simp [mapEnd]
  · simp at h
  · simp [endState]

theorem Interruptible.abortWith {e : Abort} (he : e ≠ .reset) :
    Interruptible (Machine.abortWith e : Engine α) := by
  refine .atomic ⟨fun s resets => ?_, fun s t h => ?_, fun s => ⟨[], ?_, Nat.le_refl _⟩⟩
  · simp [mapEnd]
  · simp [he] at h
  · simp [endState]

theorem Interruptible.raise (r : Raise) : Interruptible (Machine.raise r : Engine α) := by
  refine .atomic ⟨fun s resets => ?_, fun s t h => ?_, fun s => ⟨[], ?_, Nat.le_refl _⟩⟩
  · simp [mapEnd, errorRecord, withResets]
  · simp at h
  · simp [endState]

theorem Interruptible.observe {read : State → α}
    (h : ∀ s resets, read (withResets resets s) = read s) :
    Interruptible (Machine.observe read) := by
  refine .atomic ⟨fun s resets => ?_, fun s t h => ?_, fun s => ⟨[], ?_, Nat.le_refl _⟩⟩
  · simp [mapEnd, h]
  · simp at h
  · simp [endState]

theorem Interruptible.update {change : State → State}
    (h : ∀ s resets, change (withResets resets s) = withResets resets (change s))
    (ht : ∀ s, (change s).trace = s.trace) : Interruptible (Machine.update change) := by
  refine .atomic ⟨fun s resets => ?_, fun s t h => ?_, fun s => ⟨[], ?_, Nat.le_refl _⟩⟩
  · simp [mapEnd, h]
  · simp at h
  · simp [endState, ht]

theorem Interruptible.refuseIf (condition : Bool) (d : RefusedDetail) :
    Interruptible (Machine.refuseIf condition d) := .ite (.raise _) (.pure _)

theorem Interruptible.runIf {condition : Bool} {body : Engine Unit} (h : Interruptible body) :
    Interruptible (Machine.runIf condition body) := .ite h (.pure _)

theorem Interruptible.takeOperands (operands : Operand α) :
    Interruptible (Machine.takeOperands operands) := by
  cases operands
  · exact .raise _
  · exact .pure _

/-- R196: a block whose error is answered is interrupted as the block is. -/
theorem Interruptible.attempt {body : Engine Unit} (h : Interruptible body) :
    Interruptible (Machine.attempt body) := by
  intro s hs
  obtain ⟨n, h⟩ := h s hs
  have he : endState (Machine.attempt body s) = endState (body s) := by
    unfold Machine.attempt
    rcases body s with _ | ⟨e, t⟩
    · rfl
    · cases e <;> rfl
  refine ⟨n, by rw [he]; exact h.quiet, fun t ht => ?_, by rw [he]; exact h.grows,
    fun k later hk => ?_, fun k later hk => ?_⟩
  · have := h.ends t
    unfold Machine.attempt at ht
    cases hr : body s with
    | ok => rw [hr] at ht; cases ht
    | error e u => rw [hr] at ht this; cases e <;> cases ht; exact this rfl
  · simp only [Machine.attempt, h.spared k later hk]
    rcases body s with _ | ⟨e, t⟩
    · rfl
    · cases e <;> rfl
  · obtain ⟨u, made, missing, h1, h2, h3, h4, h5⟩ := h.stopped k later hk
    exact ⟨u, made, missing, by simp only [Machine.attempt, h1], h2, h3, h4, by rw [he]; exact h5⟩

/-- R266, R290: a cleanup block is one more part of the operation: it is interrupted like the rest,
and skipped where the body is. -/
theorem Interruptible.withCleanup {body : Engine α} {cleanup : Bool → Engine Unit}
    (hb : Interruptible body) (hc : ∀ failed, Interruptible (cleanup failed)) :
    Interruptible (Machine.withCleanup body cleanup) := by
  have shape : Machine.withCleanup body cleanup = fun s => match body s with
      | .ok x t => (cleanup false >>= fun _ => Pure.pure x : Engine α) t
      | .error (.raised r record) t =>
        (Machine.attempt (cleanup true) >>= fun _ => Machine.abortWith (.raised r record) : Engine α) t
      | .error e t => .error e t := by
    funext s
    unfold Machine.withCleanup
    rcases body s with ⟨x, t⟩ | ⟨e, t⟩
    · simp only [bind_run]; rcases cleanup false t with _ | _ <;> rfl
    · cases e with
      | raised r record =>
        simp only [bind_run, Machine.attempt]
        rcases cleanup true t with _ | ⟨e, u⟩
        · rfl
        · cases e <;> rfl
      | stuck => rfl
      | reset => rfl
  have split : ∀ {s : State} {rest : Engine α} {n : Nat} {t : State}, Interrupts body s n →
      endState (body s) = t → Interruptible rest →
      (∀ later k, n ≤ k → Machine.withCleanup body cleanup (withResets (k :: later) s)
        = rest (withResets ((k - n) :: later) t)) →
      Machine.withCleanup body cleanup s = rest t →
      ∃ n, Interrupts (Machine.withCleanup body cleanup) s n := by
    intro s rest n t h ht hr spared plain
    obtain ⟨n', h'⟩ := hr t (ht ▸ h.quiet)
    obtain ⟨events, g1, g2⟩ := h.grows
    obtain ⟨events', g1', g2'⟩ := h'.grows
    rw [ht] at g1
    refine ⟨n + n', by rw [plain]; exact h'.quiet, by rw [plain]; exact h'.ends,
      ⟨events' ++ events, ?_, ?_⟩, fun k later hk => ?_, fun k later hk => ?_⟩
    · rw [plain, g1', g1, List.append_assoc]
    · rw [List.length_append]; omega
    · rw [spared later k (by omega), plain, h'.spared (k - n) later (by omega), Nat.sub_sub]
    · rcases Nat.lt_or_ge k n with hn | hn
      · obtain ⟨u, made, missing, h1, h2, h3, h4, h5⟩ := h.stopped k later hn
        rw [ht] at h5
        exact ⟨u, made, events' ++ missing, withCleanup_reset h1, h2, h3, h4,
          by rw [plain, g1', h5, List.append_assoc]⟩
      · obtain ⟨u, made, missing, h1, h2, h3, h4, h5⟩ := h'.stopped (k - n) later (by omega)
        exact ⟨u, made ++ events, missing, by rw [spared later k hn, h1], h2,
          by rw [h3, g1, List.append_assoc], by rw [List.length_append]; omega,
          by rw [plain]; exact h5⟩
  intro s hs
  obtain ⟨n, h⟩ := hb s hs
  have run : ∀ s', Machine.withCleanup body cleanup s' = _ := fun s' => congrFun shape s'
  cases hr : body s with
  | ok x t =>
    refine split (rest := cleanup false >>= fun _ => Pure.pure x) h (t := t) (by rw [hr, endState])
      ((hc false).bind fun _ => .pure _) (fun later k hk => ?_) ?_
    · rw [run, h.spared k later hk, hr]; rfl
    · rw [run, hr]
  | error e t =>
    cases e with
    | raised r record =>
      refine split (rest := Machine.attempt (cleanup true) >>= fun _ => Machine.abortWith (.raised r record))
        h (t := t) (by rw [hr, endState]) ((hc true).attempt.bind fun _ => .abortWith nofun)
        (fun later k hk => ?_) ?_
      · rw [run, h.spared k later hk, hr]; rfl
      · rw [run, hr]
    | stuck =>
      refine split (rest := Machine.abortWith .stuck) h (t := t) (by rw [hr, endState]) (.abortWith nofun)
        (fun later k hk => ?_) ?_
      · rw [run, h.spared k later hk, hr]; rfl
      · rw [run, hr]; rfl
    | reset => exact absurd hr (h.ends t)

end Sys2Proof.Machine
end

