-- ==== Sys2Proof/Laws/Frames.lean ====
section
/-! SUPPORT. What each operation can write, said once: an operation takes a state only along the
writes of its class, on every way it can end; it never ends stuck, and is abandoned only where reset
is asserted. A claim about every command
follows from the same claim about single writes. -/

namespace Sys2Proof.Machine

/-! ### Writes -/

/-- The single writes the engine's operations are made of. -/
inductive Write where
  | tick (tms tdi tdo : Bool)
  | linkFault
  | shiftLoad (v : BitVector)
  | shiftCapture (tdo : Bool)
  | ghost (ir : Option BitVector) (drDefined : Bool)
  | phase (p : Nat)
  | opcode (b : Byte)
  | clockRead
  | delay (t : Nat)
  | programPulse
  | warn (w : Warning)
  | indicator (p : Nat)
  | pattern (p : Nat)
  | session (active isc bgspi : Bool)
  | partId (id : Option Word32)
  | widths (iw dw : Nat)
  | bitbang (b : Bool)
  | spiExchange (csInverted : Bool) (sent received : List Byte)
  | spiFault
  | countdown

def Write.apply (w : Write) (s : State) : State :=
  match w with
  | .tick tms tdi tdo => afterTick tms tdi tdo s
  | .linkFault => nextLink s
  | .shiftLoad v => loadShift v s
  | .shiftCapture tdo => captureBit tdo s
  | .ghost ir drDefined => { s with ghostIr := ir, ghostDrDefined := drDefined }
  | .phase p => { s with seqPhase := p }
  | .opcode b => { s with seqOpcode := b }
  | .clockRead =>
    { s with
      trace := .clockRead (s.time + clockAdvance s) :: s.trace
      time := s.time + clockAdvance s
      clock := s.clock.tail
      clockCount := s.clockCount + 1 }
  | .delay t => { s with trace := .delay t :: s.trace, time := s.time + t }
  | .programPulse => { s with trace := .programPulse :: s.trace }
  | .warn w => { s with trace := .warn w :: s.trace }
  | .indicator p => { s with trace := .indicator p :: s.trace }
  | .pattern p => { s with indPattern := p }
  | .session active isc bgspi => { s with cfgActive := active, cfgIsc := isc, cfgBgspi := bgspi }
  | .partId id => { s with cfgPartId := id }
  | .widths iw dw => { s with rafIw := iw, rafDw := dw, rafValid := true }
  | .bitbang b => { s with tapBitbang := b }
  | .spiExchange csInverted sent received =>
    emit (.spiDirect csInverted sent received) (nextSpi s)
  | .spiFault => nextSpi s
  | .countdown => Machine.countdown s

/-- The writes of a register shift (R147). -/
def Write.shifts : Write → Prop
  | .tick _ _ _ | .linkFault | .shiftLoad _ | .shiftCapture _ | .ghost _ _ | .countdown => True
  | _ => False

/-- The writes of RAF: those of a shift, and usable widths (R171, R26). -/
def Write.registers : Write → Prop
  | .tick _ _ _ | .linkFault | .shiftLoad _ | .shiftCapture _ | .ghost _ _ | .countdown => True
  | .widths iw dw => (0 < iw ∧ iw % 8 = 0) ∧ (0 < dw ∧ dw % 8 = 0)
  | _ => False

/-- The writes of an ECP5 or flash command, of a poll loop and of a restart. -/
def Write.commands : Write → Prop
  | .tick _ _ _ | .linkFault | .shiftLoad _ | .shiftCapture _ | .ghost _ _ | .countdown
  | .phase _ | .opcode _ | .clockRead | .delay _ | .programPulse | .warn _ => True
  | _ => False

/-- The writes of CFGSEQ and of SPIB's flash half, the indicator apart: those of a command, and
the session elements. -/
def Write.sequences : Write → Prop
  | .session _ _ _ | .partId _ => True
  | w => w.commands

/-- The writes of `CONFIGURE`, which drives the indicator too (R197). -/
def Write.configures : Write → Prop
  | .indicator _ | .pattern _ => True
  | w => w.sequences

/-- The writes of an SPI transfer, tunneled or direct (R246, R247). -/
def Write.transfers : Write → Prop
  | .tick _ _ _ | .linkFault | .shiftLoad _ | .shiftCapture _ | .ghost _ _ | .countdown
  | .bitbang _ | .spiExchange _ _ _ | .spiFault => True
  | _ => False

/-- A state is reached from another by writes of a class. -/
def Reach (allowed : Write → Prop) : State → State → Prop :=
  Relation.ReflTransGen fun s t => ∃ w, allowed w ∧ t = w.apply s

variable {α β : Type} {allowed : Write → Prop} {s t u : State}

theorem Reach.refl (s : State) : Reach allowed s s := Relation.ReflTransGen.refl

theorem Reach.trans (h : Reach allowed s t) (h' : Reach allowed t u) : Reach allowed s u :=
  Relation.ReflTransGen.trans h h'

theorem Reach.write (w : Write) (h : allowed w) (ht : t = w.apply s) : Reach allowed s t :=
  Relation.ReflTransGen.single ⟨w, h, ht⟩

theorem Reach.mono {wider : Write → Prop} (hw : ∀ w, allowed w → wider w)
    (h : Reach allowed s t) : Reach wider s t :=
  Relation.ReflTransGen.mono (p := fun s t => ∃ w, wider w ∧ t = w.apply s)
    (fun _ _ ⟨w, h, ht⟩ => ⟨w, hw w h, ht⟩) _ _ h

/-- What every single write does, a sequence of writes does. -/
theorem Reach.induction {R : State → State → Prop} (refl : ∀ s, R s s)
    (trans : ∀ {s t u}, R s t → R t u → R s u)
    (write : ∀ w s, allowed w → R s (w.apply s)) (h : Reach allowed s t) : R s t := by
  induction h with
  | refl => exact refl _
  | tail _ hw ih =>
    obtain ⟨w, hw, rfl⟩ := hw
    exact trans ih (write w _ hw)

/-- Log 12: the engine's own sleep is positive. -/
theorem pollSleep_pos : 0 < Config.params.tPollSleep := Nat.succ_pos _

/-- R46: no write turns the clock back. -/
theorem Reach.time_le (h : Reach allowed s t) : s.time ≤ t.time := by
  refine Reach.induction (R := fun s t => s.time ≤ t.time) (fun _ => Nat.le_refl _)
    (fun h h' => Nat.le_trans h h') (fun w s _ => ?_) h
  cases w <;> first | exact Nat.le_refl _ | exact Nat.le_add_right _ _

/-- R290: no write asserts reset where the reset input does not. -/
theorem Reach.resets_nil (h : Reach allowed s t) : s.resets = [] → t.resets = [] := by
  refine Reach.induction (R := fun s t => s.resets = [] → t.resets = []) (fun _ => id)
    (fun h h' hs => h' (h hs)) (fun w s _ hs => ?_) h
  cases w <;> first | exact hs | exact congrArg stepsLeft hs

/-! ### Operations that stay within a class -/

/-- How an operation can end without returning: raised, or abandoned where reset is asserted (R290);
never stuck (U11). -/
def Abort.fits (e : Abort) (t : State) : Prop :=
  match e with
  | .raised _ _ => True
  | .stuck => False
  | .reset => resetDue t = true

/-- However an operation ends, it went along writes of the class; if it returns, its result has
the property; if not, it was raised or abandoned. -/
def Within (allowed : Write → Prop) (result : α → Prop) (m : Engine α) : Prop :=
  ∀ s, match m s with
    | .ok x t => Reach allowed s t ∧ result x
    | .error e t => Reach allowed s t ∧ e.fits t

/-- The property of every result. -/
def anyResult : α → Prop := fun _ => True

theorem Within.mono {wider : Write → Prop} {result result' : α → Prop} {m : Engine α}
    (hw : ∀ w, allowed w → wider w) (hr : ∀ x, result x → result' x)
    (h : Within allowed result m) : Within wider result' m := by
  intro s
  have := h s
  split at this <;> exact ⟨this.1.mono hw, by first | exact hr _ this.2 | exact this.2⟩

theorem Within.any {result : α → Prop} {m : Engine α} (h : Within allowed result m) :
    Within allowed anyResult m := h.mono (fun _ h => h) fun _ _ => trivial

theorem Within.pure {result : α → Prop} {x : α} (h : result x) :
    Within allowed result (pure x) := fun s => ⟨Reach.refl s, h⟩

theorem Within.bind {result : α → Prop} {result' : β → Prop} {m : Engine α} {f : α → Engine β}
    (hm : Within allowed result m) (hf : ∀ x, result x → Within allowed result' (f x)) :
    Within allowed result' (m >>= f) := by
  intro s
  rw [bind_run]
  have h := hm s
  cases hs : m s with
  | error e t => rw [hs] at h; exact h
  | ok x t =>
    rw [hs] at h
    have h' := hf x h.2 t
    simp only
    split at h' <;> exact ⟨h.1.trans h'.1, h'.2⟩

theorem Within.raise {result : α → Prop} (r : Raise) : Within allowed result (Machine.raise r) :=
  fun s => ⟨Reach.refl s, trivial⟩

theorem Within.observe (read : State → α) : Within allowed anyResult (Machine.observe read) :=
  fun s => ⟨Reach.refl s, trivial⟩

theorem Within.update {change : State → State} (h : ∀ s, Reach allowed s (change s)) :
    Within allowed anyResult (Machine.update change) := fun s => ⟨h s, trivial⟩

theorem Within.write {change : State → State} (w : State → Write) (h : ∀ s, allowed (w s))
    (hc : ∀ s, change s = (w s).apply s) : Within allowed anyResult (Machine.update change) :=
  Within.update fun s => Reach.write (w s) (h s) (hc s)

theorem Within.ite {result : α → Prop} {c : Prop} [Decidable c] {a b : Engine α}
    (ha : Within allowed result a) (hb : Within allowed result b) :
    Within allowed result (if c then a else b) := by split <;> assumption

theorem Within.refuseIf (condition : Bool) (d : RefusedDetail) :
    Within allowed anyResult (Machine.refuseIf condition d) :=
  Within.ite (Within.raise _) (Within.pure trivial)

theorem Within.runIf {condition : Bool} {body : Engine Unit}
    (h : Within allowed anyResult body) : Within allowed anyResult (Machine.runIf condition body) :=
  Within.ite h (Within.pure trivial)

theorem Within.takeOperands (operands : Operand α) :
    Within allowed anyResult (Machine.takeOperands operands) := by
  cases operands with
  | ok x => exact Within.pure trivial
  | error d => exact Within.raise _

/-- R290: a primitive step counts towards reset, and is abandoned where reset is asserted. -/
theorem Within.primitive {result : α → Prop} {act : Engine α} (hc : allowed .countdown)
    (h : Within allowed result act) : Within allowed result (Machine.primitive act) := by
  intro s
  rw [primitive_run]
  cases hd : resetDue s with
  | true => exact ⟨Reach.refl s, hd⟩
  | false =>
    have h := h (countdown s)
    have hr : Reach allowed s (countdown s) := Reach.write .countdown hc rfl
    simp only [Bool.false_eq_true, if_false]
    cases ht : act (countdown s) <;> rw [ht] at h <;> exact ⟨hr.trans h.1, h.2⟩

theorem Within.withCleanup {result : α → Prop} {body : Engine α} {cleanup : Bool → Engine Unit}
    (hb : Within allowed result body) (hc : ∀ failed, Within allowed anyResult (cleanup failed)) :
    Within allowed result (Machine.withCleanup body cleanup) := by
  intro s
  have h := hb s
  cases hs : body s with
  | ok x t =>
    rw [hs] at h
    have h' := hc false t
    simp only [Machine.withCleanup, hs]
    cases ht : cleanup false t <;> rw [ht] at h'
    · exact ⟨h.1.trans h'.1, h.2⟩
    · exact ⟨h.1.trans h'.1, h'.2⟩
  | error e t =>
    rw [hs] at h
    cases e with
    | stuck => exact absurd h.2 id
    | reset => rw [withCleanup_reset hs]; exact h
    | raised r record =>
      have h' := hc true t
      rw [withCleanup_raised hs]
      cases ht : cleanup true t with
      | ok x u => rw [ht] at h'; exact ⟨h.1.trans h'.1, trivial⟩
      | error e u =>
        rw [ht] at h'
        cases e with
        | raised => exact ⟨h.1.trans h'.1, trivial⟩
        | stuck => exact absurd h'.2 id
        | reset => exact ⟨h.1.trans h'.1, h'.2⟩

theorem Within.attempt {body : Engine Unit} (hb : Within allowed anyResult body) :
    Within allowed anyResult (Machine.attempt body) := by
  intro s
  have h := hb s
  unfold Machine.attempt
  cases hs : body s with
  | ok x t => rw [hs] at h; exact ⟨h.1, trivial⟩
  | error e t =>
    rw [hs] at h
    cases e with
    | raised => exact ⟨h.1, trivial⟩
    | stuck => exact absurd h.2 id
    | reset => exact h

/-! ### TAPC -/

theorem within_tick (tms tdi : Bool) (hc : allowed .countdown) (h : ∀ b, allowed (.tick tms tdi b))
    (h' : allowed .linkFault) : Within allowed anyResult (tick tms tdi) := by
  refine Within.primitive hc fun s => ?_
  rw [linkExchange_run]
  cases linkAnswer s
  · exact ⟨Reach.write _ (h _) rfl, trivial⟩
  all_goals exact ⟨Reach.write _ h' rfl, trivial⟩

/-- The classes that hold the writes of a shift. -/
def HasShifts (allowed : Write → Prop) : Prop := ∀ w, Write.shifts w → allowed w

theorem shifts_registers : HasShifts Write.registers := by
  intro w h; cases w <;> trivial
theorem shifts_commands : HasShifts Write.commands := by
  intro w h; cases w <;> trivial
theorem commands_sequences (w : Write) (h : w.commands) : w.sequences := by
  cases w <;> trivial
theorem shifts_sequences : HasShifts Write.sequences :=
  fun w h => commands_sequences w (shifts_commands w h)
theorem sequences_configures (w : Write) (h : w.sequences) : w.configures := by
  cases w <;> trivial
theorem commands_commands : ∀ w, Write.commands w → Write.commands w := fun _ h => h
theorem shifts_configures : HasShifts Write.configures :=
  fun w h => sequences_configures w (shifts_sequences w h)
theorem shifts_transfers : HasShifts Write.transfers := by
  intro w h; cases w <;> trivial

theorem within_walk (ha : HasShifts allowed) (tms : List Bool) :
    Within allowed anyResult (walk tms) := by
  induction tms with
  | nil => exact Within.pure trivial
  | cons b tms ih =>
    exact (within_tick _ _ (ha _ trivial) (fun _ => ha _ trivial) (ha _ trivial)).bind fun _ _ => ih

theorem within_moveToState (ha : HasShifts allowed) (target : TapState) :
    Within allowed anyResult (moveToState target) :=
  (Within.observe _).bind fun _ _ => within_walk ha _

/-- R146: the assignment of RESET after the five ticks changes nothing. -/
theorem tapReset_eq :
    tapReset = (walk (List.replicate 5 true) >>= fun _ => update forgetLatched) := by
  funext s
  have hw : ∀ (n : Nat) (s : State), match walk (List.replicate n true) s with
      | .ok _ t => t.tapState = walkState s.tapState (List.replicate n true)
      | .error _ _ => True := by
    intro n
    induction n with
    | zero => intro s; exact rfl
    | succ n ih =>
      intro s
      rw [List.replicate_succ, walk, bind_run, tick, primitive_run]
      cases resetDue s with
      | true => trivial
      | false =>
        simp only [Bool.false_eq_true, if_false]
        rw [linkExchange_run]
        cases linkAnswer (countdown s)
        · exact ih (afterTick true false _ (countdown s))
        all_goals trivial
  have := hw 5 s
  rw [tapReset, bind_run, bind_run]
  cases h : walk (List.replicate 5 true) s with
  | error e t => rfl
  | ok x t =>
    rw [h] at this
    have ht : t.tapState = .reset := by
      refine this.trans ?_
      cases s.tapState <;> rfl
    simp only [update_run]
    rw [← ht]

theorem within_forgetLatched (ha : HasShifts allowed) :
    Within allowed anyResult (update forgetLatched) :=
  Within.write (fun _ => .ghost none false) (fun _ => ha _ trivial) fun _ => rfl

theorem within_tapReset (ha : HasShifts allowed) : Within allowed anyResult tapReset := by
  rw [tapReset_eq]
  exact (within_walk ha _).bind fun _ _ => within_forgetLatched ha

theorem within_shiftBits (ha : HasShifts allowed) (leave : Bool) (bits : List Bool) :
    Within allowed anyResult (shiftBits leave bits) := by
  induction bits with
  | nil => exact Within.pure trivial
  | cons b bits ih =>
    exact (within_tick _ _ (ha _ trivial) (fun _ => ha _ trivial) (ha _ trivial)).bind fun tdo _ =>
      (Within.write (fun _ => .shiftCapture tdo) (fun _ => ha _ trivial) fun _ => rfl).bind
        fun _ _ => ih

theorem within_shiftReg (ha : HasShifts allowed) (shiftState stateAfter : TapState) (v : BitVector) :
    Within allowed anyResult (shiftReg shiftState v stateAfter) :=
  (within_moveToState ha _).bind fun _ _ =>
    (Within.write (fun _ => .shiftLoad v) (fun _ => ha _ trivial) fun _ => rfl).bind fun _ _ =>
      (within_shiftBits ha _ _).bind fun _ _ =>
        (within_moveToState ha _).bind fun _ _ => Within.observe _

theorem within_shiftInstruction (ha : HasShifts allowed) (opcode length : Nat)
    (stateAfter : TapState) :
    Within allowed anyResult (shiftInstruction opcode length stateAfter) :=
  (Within.refuseIf _ _).bind fun _ _ => (within_shiftReg ha _ _ _).bind fun _ _ =>
    (Within.write (fun _ => .ghost (some ⟨length, opcode⟩) false) (fun _ => ha _ trivial)
      fun _ => rfl).bind fun _ _ => Within.pure trivial

theorem within_shiftData (ha : HasShifts allowed) (tdi : Option BitVector) (length : Nat)
    (stateAfter : TapState) : Within allowed anyResult (shiftData tdi length stateAfter) :=
  (Within.refuseIf _ _).bind fun _ _ => (within_shiftReg ha _ _ _).bind fun _ _ =>
    (Within.write (fun s => .ghost s.ghostIr true) (fun _ => ha _ trivial) fun _ => rfl).bind
      fun _ _ => Within.pure trivial

theorem within_shiftDataOrdered (ha : HasShifts allowed) (op : DataShift) :
    Within allowed anyResult (shiftDataOrdered op) :=
  (Within.refuseIf _ _).bind fun _ _ => (Within.refuseIf _ _).bind fun _ _ =>
    (within_shiftData ha _ _ _).bind fun _ _ => Within.pure trivial

theorem within_runTest (ha : HasShifts allowed) (cycles : Nat) (runState : TapState) :
    Within allowed anyResult (runTest cycles runState) :=
  (Within.refuseIf _ _).bind fun _ _ => (within_moveToState ha _).bind fun _ _ => within_walk ha _

theorem within_enumerateLoop (ha : HasShifts allowed) (P : Params) (n : Nat)
    (devices : List JtagDevice) : Within allowed anyResult (enumerateLoop P n devices) := by
  induction n generalizing devices with
  | zero => exact Within.pure trivial
  | succ n ih =>
    exact (within_shiftData ha _ _ _).bind fun _ _ => Within.ite (Within.pure trivial) (ih _)

theorem within_enumerate (ha : HasShifts allowed) (P : Params) :
    Within allowed anyResult (enumerate P) :=
  (within_tapReset ha).bind fun _ _ => (within_shiftInstruction ha _ _ _).bind fun _ _ =>
    (within_enumerateLoop ha _ _ _).bind fun _ _ => (within_moveToState ha _).bind fun _ _ =>
      Within.pure trivial

/-! ### RAF -/

theorem within_probeWidth (opc : Byte) : Within Write.registers anyResult (probeWidth opc) :=
  (within_shiftInstruction shifts_registers _ _ _).bind fun _ _ =>
    (within_shiftData shifts_registers _ _ _).bind fun _ _ => Within.pure trivial

theorem within_requireWidth (width : Option Nat) :
    Within allowed (fun w => 0 < w ∧ w % 8 = 0) (requireWidth width) := by
  cases width with
  | none => exact Within.raise _
  | some w =>
    refine if hw : w = 0 ∨ w % 8 ≠ 0 then ?_ else ?_
    · rw [requireWidth, if_pos hw]; exact Within.raise _
    · rw [requireWidth, if_neg hw]; exact Within.pure (by omega)

theorem within_detectWidths (P : Params) : Within Write.registers anyResult (detectWidths P) := by
  refine (Within.observe _).bind fun _ _ => Within.ite (Within.observe _) ?_
  exact (within_tapReset shifts_registers).bind fun _ _ => (within_probeWidth _).bind fun _ _ =>
    (within_requireWidth _).bind fun dw hd => (within_probeWidth _).bind fun _ _ =>
      (within_requireWidth _).bind fun iw hi =>
        (Within.write (fun _ => .widths iw dw) (fun _ => ⟨hi, hd⟩) fun _ => rfl).bind fun _ _ =>
          Within.pure trivial

theorem within_metaShift (ha : HasShifts allowed) (opc : Byte) (word : BitVector) :
    Within allowed anyResult (metaShift opc word) :=
  (within_shiftInstruction ha _ _ _).bind fun _ _ => within_shiftData ha _ _ _

theorem within_regTransaction (P : Params) (address : Nat) (isWrite : Bool) (value : Nat) :
    Within Write.registers anyResult (regTransaction P address isWrite value) :=
  (within_detectWidths P).bind fun _ _ => (Within.refuseIf _ _).bind fun _ _ =>
    (Within.refuseIf _ _).bind fun _ _ => (within_metaShift shifts_registers _ _).bind fun _ _ =>
      (within_metaShift shifts_registers _ _).bind fun _ _ =>
        (within_runTest shifts_registers _ _).bind fun _ _ => Within.pure trivial

theorem within_regExchange (P : Params) (address : Nat) (isWrite emptyIsZero : Bool)
    (payload : List Byte) :
    Within Write.registers anyResult (regExchange P address isWrite emptyIsZero payload) :=
  (within_detectWidths P).bind fun _ _ => (Within.takeOperands _).bind fun _ _ =>
    (within_regTransaction P _ _ _).bind fun _ _ => Within.pure trivial

/-! ### CFGSEQ -/

/-- The classes that hold the writes of a command. -/
def HasCommands (allowed : Write → Prop) : Prop := ∀ w, Write.commands w → allowed w

theorem HasCommands.shifts (ha : HasCommands allowed) : HasShifts allowed :=
  fun w h => ha w (shifts_commands w h)


theorem within_setOpcode (ha : HasCommands allowed) (b : Byte) : Within allowed anyResult (setOpcode b) :=
  Within.write (fun _ => .opcode b) (fun _ => ha _ trivial) fun _ => rfl

theorem within_setPhase (ha : HasCommands allowed) (p : Nat) : Within allowed anyResult (setPhase p) :=
  Within.write (fun _ => .phase p) (fun _ => ha _ trivial) fun _ => rfl

theorem within_warn (ha : HasCommands allowed) (w : Warning) : Within allowed anyResult (warn w) :=
  Within.primitive (ha _ trivial)
    (Within.write (fun _ => .warn w) (fun _ => ha _ trivial) fun _ => rfl)

theorem within_delay (ha : HasCommands allowed) (t : Nat) : Within allowed anyResult (delay t) :=
  Within.primitive (ha _ trivial)
    (Within.write (fun _ => .delay t) (fun _ => ha _ trivial) fun _ => rfl)

theorem within_now (ha : HasCommands allowed) : Within allowed anyResult now :=
  Within.primitive (ha _ trivial) fun _ => ⟨Reach.write .clockRead (ha _ trivial) rfl, trivial⟩

theorem within_readStatus (ha : HasCommands allowed) (P : Params) : Within allowed anyResult (readStatus P) :=
  (within_setOpcode ha _).bind fun _ _ => (within_shiftInstruction ha.shifts _ _ _).bind
    fun _ _ => (within_shiftData ha.shifts _ _ _).bind fun _ _ => Within.pure trivial

theorem within_warnViolations (ha : HasCommands allowed) (status : Word32) (found : List Violation) :
    Within allowed anyResult (warnViolations status found) := by
  induction found with
  | nil => exact Within.pure trivial
  | cons v found ih => exact (within_warn ha _).bind fun _ _ => ih

theorem within_checkStatus (ha : HasCommands allowed) (P : Params) (check : StatusCheck) :
    Within allowed anyResult (checkStatus P check) := by
  refine (within_readStatus ha P).bind fun _ _ => (Within.runIf (within_warn ha _)).bind fun _ _ => ?_
  unfold judgeViolations
  split
  · exact Within.pure trivial
  · exact Within.ite (within_warnViolations ha _ _) (Within.raise _)

theorem within_execCommand (ha : HasCommands allowed) (P : Params) (opc : Byte) (operand : Option BitVector) (idle : Nat)
    (idleState : TapState) (check : Option StatusCheck) :
    Within allowed anyResult (execCommand P opc operand idle idleState check) := by
  refine (within_setOpcode ha _).bind fun _ _ => (within_shiftInstruction ha.shifts _ _ _).bind
    fun _ _ => Within.bind (result := anyResult) ?_ fun _ _ =>
      (within_runTest ha.shifts _ _).bind fun _ _ =>
        Within.bind (result := anyResult) ?_ fun _ _ => Within.pure trivial
  · cases operand with
    | none => exact Within.pure trivial
    | some v =>
      exact (within_shiftData ha.shifts _ _ _).bind fun _ _ => Within.pure trivial
  · cases check with
    | none => exact Within.pure trivial
    | some c => exact within_checkStatus ha P c

/-- How an operation can end that stays within a class, from one state. -/
def EndsWithin (allowed : Write → Prop) (s : State) : EStateM.Result Abort State α → Prop
  | .ok _ t => Reach allowed s t
  | .error e t => Reach allowed s t ∧ e.fits t

theorem EndsWithin.after {s t : State} {r : EStateM.Result Abort State α}
    (h : Reach allowed s t) (hr : EndsWithin allowed t r) : EndsWithin allowed s r := by
  cases r with
  | ok x u => exact Reach.trans h hr
  | error e u => exact ⟨Reach.trans h hr.1, hr.2⟩

theorem within_of_endsWithin {m : Engine α} (h : ∀ s, EndsWithin allowed s (m s)) :
    Within allowed anyResult m := by
  intro s
  have := h s
  cases hs : m s <;> rw [hs] at this
  · exact ⟨this, trivial⟩
  · exact this

/-- A clock read either is abandoned or shows the time it leaves behind. -/
theorem now_ends (ha : HasCommands allowed) (s : State) :
    match now s with
    | .ok x t => Reach allowed s t ∧ t.time = x
    | .error e t => Reach allowed s t ∧ e.fits t := by
  have h := within_now ha s
  rw [now, primitive_run] at h ⊢
  cases hd : resetDue s <;> rw [hd] at h
  · exact ⟨h.1, rfl⟩
  · exact h

/-- A sleep either is abandoned or lets its time pass. -/
theorem delay_ends (ha : HasCommands allowed) (d : Nat) (s : State) :
    match delay d s with
    | .ok _ t => Reach allowed s t ∧ t.time = s.time + d
    | .error e t => Reach allowed s t ∧ e.fits t := by
  have h := within_delay ha d s
  rw [delay, primitive_run] at h ⊢
  cases hd : resetDue s <;> rw [hd] at h
  · exact ⟨h.1, rfl⟩
  · exact h

/-- U11, log 12: with a positive sleep and at least as many polls as time units left before the
deadline, a poll loop ends. -/
theorem pollLoop_ends (ha : HasCommands allowed) {P : Params} (hP : 0 < P.tPollSleep) {poll : Engine Bool}
    (h : Within allowed anyResult poll) (deadline : Nat) (awaited : Byte) (n : Nat)
    (s : State) (hn : deadline < s.time + n) :
    EndsWithin allowed s (pollLoop P poll deadline awaited (n + 1) s) := by
  induction n generalizing s with
  | zero | succ n ih =>
    rw [pollLoop, bind_run]
    have hp := h s
    cases hs : poll s with
    | error e t => rw [hs] at hp; exact hp
    | ok done t =>
      rw [hs] at hp
      have hle := hp.1.time_le
      cases done with
      | true => exact hp.1
      | false =>
        refine EndsWithin.after hp.1 ?_
        simp only [Bool.false_eq_true, if_false]
        rw [bind_run]
        have hw := now_ends ha t
        cases hs' : now t with
        | error e u => rw [hs'] at hw; exact hw
        | ok x u =>
          rw [hs'] at hw
          refine EndsWithin.after hw.1 ?_
          have hlu := hw.1.time_le
          by_cases ht : deadline < x
          · simp only [ht, if_true]; exact ⟨Reach.refl _, trivial⟩
          · simp only [ht, if_false]
            rw [bind_run]
            have hd := delay_ends ha P.tPollSleep u
            cases hs'' : delay P.tPollSleep u with
            | error e v => rw [hs''] at hd; exact hd
            | ok y v =>
              rw [hs''] at hd
              refine EndsWithin.after hd.1 ?_
              have := hw.2
              have := hd.2
              first
              | exact absurd hn (by omega)
              | exact ih _ (by omega)

theorem within_pollUntil (ha : HasCommands allowed) {P : Params} (hP : 0 < P.tPollSleep) {poll : Engine Bool}
    (h : Within allowed anyResult poll) (timeout : Nat) (awaited : Byte) :
    Within allowed anyResult (pollUntil P timeout awaited poll) := by
  refine within_of_endsWithin fun s => ?_
  rw [pollUntil, bind_run]
  have hw := now_ends ha s
  cases hs : now s with
  | error e t => rw [hs] at hw; exact hw
  | ok x t =>
    rw [hs] at hw
    exact EndsWithin.after hw.1 (pollLoop_ends ha hP h (x + timeout) awaited (timeout + 1) t
      (by have := hw.2; omega))

theorem within_waitForCompletion (ha : HasCommands allowed) {P : Params} (hP : 0 < P.tPollSleep) (timeout : Nat) :
    Within allowed anyResult (waitForCompletion P timeout) :=
  (Within.observe _).bind fun _ _ => within_pollUntil ha hP
    ((within_readStatus ha P).bind fun _ _ => Within.pure trivial) _ _

theorem within_restart (ha : HasCommands allowed) (P : Params) : Within allowed anyResult (restart P) := by
  unfold restart
  split
  · exact (within_execCommand ha _ _ _ _ _ _).bind fun _ _ => Within.pure trivial
  · exact Within.primitive (ha _ trivial)
      (Within.write (fun _ => .programPulse) (fun _ => ha _ trivial) fun _ => rfl)

theorem within_preconfigure (ha : HasCommands allowed) (P : Params) : Within allowed anyResult (preconfigure P) :=
  (within_execCommand ha _ _ _ _ _ _).bind fun _ _ => Within.pure trivial

theorem within_readPartId (P : Params) : Within Write.sequences anyResult (readPartId P) :=
  (within_setOpcode commands_sequences _).bind fun _ _ => (within_shiftInstruction shifts_sequences _ _ _).bind
    fun _ _ => (within_shiftData shifts_sequences _ _ _).bind fun _ _ =>
      Within.ite (Within.raise _)
        ((Within.write (fun _ => .partId _) (fun _ => trivial) fun _ => rfl).bind fun _ _ =>
          Within.pure trivial)

theorem within_sessionBegin : Within Write.sequences anyResult sessionBegin :=
  Within.update fun s => (Reach.write (.session true false false) trivial rfl).trans
    (Reach.write (.partId none) trivial rfl)

theorem within_setIsc (isc : Bool) : Within Write.sequences anyResult (setIsc isc) :=
  Within.write (fun s => .session s.cfgActive isc s.cfgBgspi) (fun _ => trivial) fun _ => rfl

theorem within_iscEnable (P : Params) : Within Write.sequences anyResult (iscEnable P) :=
  (within_setIsc _).bind fun _ _ => (within_execCommand commands_sequences _ _ _ _ _ _).bind fun _ _ => Within.pure trivial

theorem within_iscErase (ha : HasCommands allowed) (P : Params) : Within allowed anyResult (iscErase P) :=
  (within_execCommand ha _ _ _ _ _ _).bind fun _ _ => Within.pure trivial

theorem within_iscDisable (P : Params) (check : Option StatusCheck) :
    Within Write.sequences anyResult (iscDisable P check) :=
  (within_setIsc _).bind fun _ _ => (within_execCommand commands_sequences _ _ _ _ _ _).bind fun _ _ => Within.pure trivial

theorem within_eraseAndWait (ha : HasCommands allowed) {P : Params} (hP : 0 < P.tPollSleep) :
    Within allowed anyResult (eraseAndWait P) :=
  (within_iscErase ha P).bind fun _ _ => (within_waitForCompletion ha hP _).bind fun _ _ =>
    within_checkStatus ha P _

theorem within_initAddress (ha : HasCommands allowed) (P : Params) : Within allowed anyResult (initAddress P) :=
  (within_execCommand ha _ _ _ _ _ _).bind fun _ _ => Within.pure trivial

theorem within_burst (ha : HasCommands allowed) (P : Params) (bitstream : List Byte) :
    Within allowed anyResult (burst P bitstream) :=
  (within_setOpcode ha _).bind fun _ _ => (within_shiftInstruction ha.shifts _ _ _).bind
    fun _ _ => (within_shiftData ha.shifts _ _ _).bind fun _ _ => Within.pure trivial

theorem within_teardown (P : Params) (failed : Bool) :
    Within Write.sequences anyResult (teardown P failed) := by
  refine (Within.attempt ((Within.observe _).bind fun _ _ =>
    (Within.runIf (within_iscDisable P none)).bind fun _ _ =>
      within_moveToState shifts_sequences _)).bind fun e _ => ?_
  refine Within.bind (result := anyResult) ?_ fun pending _ =>
    (Within.write (fun _ => .session false false false) (fun _ => trivial) fun _ => rfl).bind
      fun _ _ => Within.pure trivial
  cases e with
  | none => exact Within.pure trivial
  | some e =>
    exact Within.ite ((within_warn commands_sequences _).bind fun _ _ => Within.pure trivial)
      (Within.pure trivial)

theorem within_raisePending (pending : Option (Raise × ErrorRecord)) :
    Within allowed anyResult (raisePending pending) := by
  cases pending with
  | none => exact Within.pure trivial
  | some e => exact fun s => ⟨Reach.refl s, trivial⟩

theorem within_sessionEnd (P : Params) (phase : Nat) (failed : Bool) :
    Within Write.sequences anyResult (sessionEnd P phase failed) :=
  (within_setPhase commands_sequences _).bind fun _ _ => (within_teardown P failed).bind fun _ _ =>
    within_raisePending _

theorem within_configureBody {P : Params} (hP : 0 < P.tPollSleep) (bitstream : List Byte) :
    Within Write.sequences anyResult (configureBody P bitstream) :=
  (within_setPhase commands_sequences _).bind fun _ _ => (within_readPartId P).bind fun _ _ =>
  (within_setPhase commands_sequences _).bind fun _ _ => (within_restart commands_sequences P).bind fun _ _ =>
  (within_delay commands_sequences _).bind fun _ _ => (within_setPhase commands_sequences _).bind fun _ _ =>
  (within_preconfigure commands_sequences P).bind fun _ _ => (within_setPhase commands_sequences _).bind fun _ _ =>
  (within_iscEnable P).bind fun _ _ => (within_setPhase commands_sequences _).bind fun _ _ =>
  (within_eraseAndWait commands_sequences hP).bind fun _ _ => (within_setPhase commands_sequences _).bind fun _ _ =>
  (within_initAddress commands_sequences P).bind fun _ _ => (within_burst commands_sequences P _).bind fun _ _ =>
  (within_setPhase commands_sequences _).bind fun _ _ => (within_runTest shifts_sequences _ _).bind fun _ _ =>
  (within_setPhase commands_sequences _).bind fun _ _ => (within_checkStatus commands_sequences P _).bind fun _ _ =>
  (within_setPhase commands_sequences _).bind fun _ _ => within_iscDisable P _

theorem within_indicator (p : Nat) : Within Write.configures anyResult (indicator p) :=
  Within.primitive trivial (Within.write (fun _ => .indicator p) (fun _ => trivial) fun _ => rfl)

theorem within_setPattern (p : Nat) : Within Write.configures anyResult (setPattern p) :=
  Within.write (fun _ => .pattern p) (fun _ => trivial) fun _ => rfl

theorem within_configureEnd (P : Params) (failed : Bool) :
    Within Write.configures anyResult (configureEnd P failed) := by
  have wide : ∀ {α : Type} {r : α → Prop} {m : Engine α}, Within Write.sequences r m →
      Within Write.configures r m := fun h => h.mono sequences_configures fun _ h => h
  exact (wide (within_setPhase commands_sequences _)).bind fun _ _ => (wide (within_teardown P failed)).bind
    fun _ _ => (within_indicator _).bind fun _ _ => (within_setPattern _).bind
      fun _ _ => within_raisePending _

theorem within_configure {P : Params} (hP : 0 < P.tPollSleep) (bitstream : List Byte) :
    Within Write.configures anyResult (configure P bitstream) :=
  (Within.refuseIf _ _).bind fun _ _ =>
    (within_sessionBegin.mono sequences_configures fun _ h => h).bind fun _ _ =>
    (within_indicator _).bind fun _ _ => (within_setPattern _).bind fun _ _ =>
    (Within.withCleanup ((within_configureBody hP _).mono sequences_configures fun _ h => h)
      (within_configureEnd P)).bind fun _ _ => Within.observe _

theorem within_unconfigure {P : Params} (hP : 0 < P.tPollSleep) :
    Within Write.sequences anyResult (unconfigure P) :=
  within_sessionBegin.bind fun _ _ => Within.withCleanup
    ((within_setPhase commands_sequences _).bind fun _ _ => (within_restart commands_sequences P).bind fun _ _ =>
      (within_delay commands_sequences _).bind fun _ _ => (within_setPhase commands_sequences _).bind fun _ _ =>
      (within_preconfigure commands_sequences P).bind fun _ _ => (within_setPhase commands_sequences _).bind fun _ _ =>
      (within_iscEnable P).bind fun _ _ => (within_setPhase commands_sequences _).bind fun _ _ =>
      (within_eraseAndWait commands_sequences hP).bind fun _ _ => (within_setPhase commands_sequences _).bind fun _ _ =>
      within_iscDisable P _) (within_sessionEnd P 6)

theorem within_triggerReconfiguration (ha : HasCommands allowed) (P : Params) :
    Within allowed anyResult (triggerReconfiguration P) :=
  (within_restart ha P).bind fun _ _ => within_runTest ha.shifts _ _

/-! ### SPIB -/

theorem within_enterBackgroundSpi (P : Params) :
    Within Write.sequences anyResult (enterBackgroundSpi P) :=
  (within_execCommand commands_sequences _ _ _ _ _ _).bind fun _ _ =>
    Within.write (fun s => .session s.cfgActive s.cfgIsc true) (fun _ => trivial) fun _ => rfl

theorem within_bgSpiTransfer (ha : HasCommands allowed) (out : List Byte) :
    Within allowed anyResult (bgSpiTransfer out) :=
  (within_setOpcode ha _).bind fun _ _ => (within_shiftData ha.shifts _ _ _).bind fun _ _ =>
    Within.pure trivial

theorem within_flashStatus (ha : HasCommands allowed) (P : Params) : Within allowed anyResult (flashStatus P) :=
  (within_bgSpiTransfer ha _).bind fun _ _ => Within.pure trivial

theorem within_flashWaitIdle (ha : HasCommands allowed) {P : Params} (hP : 0 < P.tPollSleep) (timeout : Nat)
    (awaited : Byte) : Within allowed anyResult (flashWaitIdle P timeout awaited) :=
  within_pollUntil ha hP ((within_flashStatus ha P).bind fun _ _ => Within.pure trivial) _ _

theorem within_flashWriteEnable (ha : HasCommands allowed) {P : Params} (hP : 0 < P.tPollSleep) :
    Within allowed anyResult (flashWriteEnable P) :=
  (within_bgSpiTransfer ha _).bind fun _ _ => within_pollUntil ha hP
    ((within_flashStatus ha P).bind fun _ _ => Within.pure trivial) _ _

theorem within_flashModify (ha : HasCommands allowed) {P : Params} (hP : 0 < P.tPollSleep) (frame : List Byte)
    (timeout : Nat) (awaited : Byte) :
    Within allowed anyResult (flashModify P frame timeout awaited) :=
  (within_flashWriteEnable ha hP).bind fun _ _ => (within_bgSpiTransfer ha _).bind fun _ _ =>
    within_flashWaitIdle ha hP _ _

theorem within_writePages (ha : HasCommands allowed) {P : Params} (hP : 0 < P.tPollSleep) (bitstream : List Byte)
    (offset k count : Nat) :
    Within allowed anyResult (writePages P bitstream offset k count) := by
  induction count generalizing k with
  | zero => exact Within.pure trivial
  | succ count ih => exact (within_flashModify ha hP _ _ _).bind fun _ _ => ih _

theorem within_readPages (ha : HasCommands allowed) (P : Params) (offset length k count : Nat) :
    Within allowed anyResult (readPages P offset length k count) := by
  induction count generalizing k with
  | zero => exact Within.pure trivial
  | succ count ih =>
    exact (within_bgSpiTransfer ha _).bind fun _ _ => (ih _).bind fun _ _ => Within.pure trivial

theorem within_readFlashId (P : Params) : Within Write.sequences anyResult (readFlashId P) :=
  within_sessionBegin.bind fun _ _ => (Within.withCleanup ((within_setPhase commands_sequences _).bind fun _ _ =>
    (within_enterBackgroundSpi P).bind fun _ _ => (within_setPhase commands_sequences _).bind fun _ _ =>
    within_bgSpiTransfer commands_sequences _) (within_sessionEnd P 3)).bind fun _ _ => Within.pure trivial

theorem within_readFlashUid (P : Params) : Within Write.sequences anyResult (readFlashUid P) :=
  within_sessionBegin.bind fun _ _ => (Within.withCleanup ((within_setPhase commands_sequences _).bind fun _ _ =>
    (within_enterBackgroundSpi P).bind fun _ _ => (within_setPhase commands_sequences _).bind fun _ _ =>
    within_bgSpiTransfer commands_sequences _) (within_sessionEnd P 3)).bind fun _ _ => Within.pure trivial

theorem within_eraseFlash {P : Params} (hP : 0 < P.tPollSleep) :
    Within Write.sequences anyResult (eraseFlash P) :=
  within_sessionBegin.bind fun _ _ => Within.withCleanup ((within_setPhase commands_sequences _).bind fun _ _ =>
    (within_enterBackgroundSpi P).bind fun _ _ => (within_setPhase commands_sequences _).bind fun _ _ =>
    (within_flashWriteEnable commands_sequences hP).bind fun _ _ => (within_setPhase commands_sequences _).bind fun _ _ =>
    (within_bgSpiTransfer commands_sequences _).bind fun _ _ => within_flashWaitIdle commands_sequences hP _ _) (within_sessionEnd P 4)

theorem within_flashWrite {P : Params} (hP : 0 < P.tPollSleep) (op : FlashWrite) :
    Within Write.sequences anyResult (flashWrite P op) :=
  (Within.refuseIf _ _).bind fun _ _ => (Within.refuseIf _ _).bind fun _ _ =>
    within_sessionBegin.bind fun _ _ => (Within.withCleanup ((within_setPhase commands_sequences _).bind fun _ _ =>
      (within_enterBackgroundSpi P).bind fun _ _ => (within_setPhase commands_sequences _).bind fun _ _ =>
      (Within.runIf (within_flashModify commands_sequences hP _ _ _)).bind fun _ _ => (within_setPhase commands_sequences _).bind
      fun _ _ => (Within.runIf (within_flashModify commands_sequences hP _ _ _)).bind fun _ _ =>
      (within_setPhase commands_sequences _).bind fun _ _ => within_writePages commands_sequences hP _ _ _ _)
      (within_sessionEnd P 5)).bind fun _ _ => (within_setPhase commands_sequences _).bind fun _ _ =>
        within_triggerReconfiguration commands_sequences P

theorem within_readFlash (P : Params) (offset length : Nat) :
    Within Write.sequences anyResult (readFlash P offset length) :=
  (Within.refuseIf _ _).bind fun _ _ => within_sessionBegin.bind fun _ _ =>
    Within.withCleanup ((within_setPhase commands_sequences _).bind fun _ _ =>
      (within_enterBackgroundSpi P).bind fun _ _ => (within_setPhase commands_sequences _).bind fun _ _ =>
      within_readPages commands_sequences P _ _ _ _) (within_sessionEnd P 3)

theorem within_setBitbang (b : Bool) : Within Write.transfers anyResult (setBitbang b) :=
  Within.write (fun _ => .bitbang b) (fun _ => trivial) fun _ => rfl

theorem within_spiTunneled (P : Params) (data : List Byte) :
    Within Write.transfers anyResult (spiTunneled P data) :=
  (within_shiftInstruction shifts_transfers _ _ _).bind fun _ _ => (within_setBitbang _).bind
    fun _ _ => (Within.withCleanup (within_shiftData shifts_transfers _ _ _) fun _ =>
      within_setBitbang _).bind fun _ _ => Within.pure trivial

theorem within_spiDirect (csInverted : Bool) (out : List Byte) :
    Within Write.transfers anyResult (spiDirect csInverted out) := by
  refine Within.primitive trivial fun s => ?_
  unfold spiExchange
  cases spiAnswer s with
  | bytes received =>
    by_cases hl : received.length = out.length
    · simp only [hl, if_true]
      exact ⟨Reach.write (.spiExchange csInverted out received) trivial rfl, trivial⟩
    · simp only [hl, if_false]
      exact ⟨Reach.write .spiFault trivial rfl, trivial⟩
  | _ => exact ⟨Reach.write .spiFault trivial rfl, trivial⟩

theorem within_spiTransfer (P : Params) (data : List Byte) (invertCs : Bool) :
    Within Write.transfers anyResult (spiTransfer P data invertCs) := by
  refine (Within.refuseIf _ _).bind fun _ _ => ?_
  split
  · exact within_spiTunneled P data
  · exact within_spiDirect _ _

theorem within_spiRegTransaction (P : Params) (address : Nat) (isWrite : Bool) (value : Word32) :
    Within Write.transfers anyResult (spiRegTransaction P address isWrite value) :=
  (Within.refuseIf _ _).bind fun _ _ => (Within.refuseIf _ _).bind fun _ _ =>
    (within_spiTransfer P _ _).bind fun _ _ => Within.pure trivial

/-! ### Commands -/

/-- How a command leaves the state its operation ended in: it answers (R101, R265), or it was
abandoned where reset is asserted (R290). -/
def Answered (u t : State) : Prop :=
  (∃ data, t = finishCommand data u) ∨ (∃ e, t = takeError e u)
  ∨ (resetDue u = true ∧ t = assertReset u)

/-- A command whose operation stays within a class always answers or is abandoned, and along that
class. -/
theorem commandCycle_within {op : Option Byte} {body : Engine (List Byte)}
    (h : Within allowed anyResult body) (s : State) :
    ∃ u t, commandCycle op body s = .next t ∧ Reach allowed (beginCommand op s) u
      ∧ Answered u t := by
  have hb := h (beginCommand op s)
  unfold commandCycle
  cases hs : body (beginCommand op s) with
  | ok data u => rw [hs] at hb; exact ⟨u, _, rfl, hb.1, .inl ⟨data, rfl⟩⟩
  | error e u =>
    rw [hs] at hb
    cases e with
    | stuck => exact absurd hb.2 id
    | raised r record => exact ⟨u, _, rfl, hb.1, .inr (.inl ⟨record, rfl⟩)⟩
    | reset => exact ⟨u, _, rfl, hb.1, .inr (.inr ⟨hb.2, rfl⟩)⟩

theorem ownedCommand_within {op : Byte} {body : Engine (List Byte)}
    (h : Within allowed anyResult body) (s : State) :
    ∃ u t, ownedCommand op body s = .next t ∧ Reach allowed (beginCommand (some op) s) u
      ∧ Answered u t :=
  commandCycle_within
    (((Within.observe _).bind fun _ _ => Within.refuseIf _ _).bind fun _ _ => h) s

theorem issuedCommand_within {body : Engine (List Byte)}
    (h : Within allowed anyResult body) (s : State) :
    ∃ u t, issuedCommand body s = .next t ∧ Reach allowed (beginCommand none s) u
      ∧ Answered u t :=
  commandCycle_within
    (((Within.observe _).bind fun _ _ => Within.refuseIf _ _).bind fun _ _ => h) s

end Sys2Proof.Machine
end

