-- ==== Sys2Proof/Laws/Cleanup.lean ====
section
/-! SUPPORT. What holds on every exit of the engine's cleanup blocks (spec/60_exceptions.md R266):
the session elements cleared, and for `CONFIGURE` the idle pattern written. -/

namespace Sys2Proof.Machine

variable {α β : Type}

/-- A property of the state where an operation returned or raised. Where it was abandoned, reset
sets the state (R290). -/
def Ending (Q : State → Prop) : EStateM.Result Abort State α → Prop
  | .ok _ t => Q t
  | .error (.raised _ _) t => Q t
  | .error _ _ => True

/-- A property of the state on every exit of an operation. -/
def EndsIn (Q : State → Prop) (m : Engine α) : Prop := ∀ s, Ending Q (m s)

/-- An operation that raises nothing. -/
def Unraised (m : Engine α) : Prop :=
  ∀ s, match m s with
    | .error (.raised _ _) _ => False
    | _ => True

/-- What the first operation leaves, the second starts from. -/
theorem Ending.bind {Q R : State → Prop} {m : Engine α} {f : α → Engine β} {s : State}
    (hm : Ending Q (m s)) (hr : ∀ t, Q t → R t) (hf : ∀ x t, Q t → Ending R (f x t)) :
    Ending R ((m >>= f) s) := by
  rw [bind_run]
  cases hs : m s with
  | ok x t => rw [hs] at hm; exact hf x t hm
  | error e t =>
    rw [hs] at hm
    cases e with
    | raised => exact hr _ hm
    | stuck => trivial
    | reset => trivial

/-- An operation that raises nothing, then one that ends in a property. -/
theorem EndsIn.bind {Q : State → Prop} {m : Engine α} {f : α → Engine β} (h : Unraised m)
    (hf : ∀ x, EndsIn Q (f x)) : EndsIn Q (m >>= f) := by
  intro s
  have h := h s
  rw [bind_run]
  cases hs : m s with
  | ok x t => exact hf x t
  | error e t =>
    rw [hs] at h
    cases e with
    | raised => exact h.elim
    | stuck => trivial
    | reset => trivial

theorem unraised_update (change : State → State) : Unraised (update change) := fun _ => trivial

/-- A primitive step that can only write raises nothing. -/
theorem unraised_primitive {act : Engine α} (h : Unraised act) : Unraised (primitive act) := by
  intro s
  rw [primitive_run]
  cases resetDue s
  · exact h (countdown s)
  · trivial

/-- R39 (a): no session. -/
def SessionClosed (s : State) : Prop :=
  s.cfgActive = false ∧ s.cfgIsc = false ∧ s.cfgBgspi = false

/-- R196: a teardown raises nothing itself, and leaves the three flags cleared. -/
theorem teardown_closes (P : Params) (failed : Bool) :
    Unraised (teardown P failed) ∧ EndsIn SessionClosed (teardown P failed) := by
  refine forall_and.mp fun s => ?_
  rw [teardown, bind_run, attempt]
  cases teardownPins P s with
  | ok x t => exact ⟨trivial, rfl, rfl, rfl⟩
  | error e t =>
    cases e with
    | stuck => exact ⟨trivial, trivial⟩
    | reset => exact ⟨trivial, trivial⟩
    | raised r record =>
      cases failed with
      | false => exact ⟨trivial, rfl, rfl, rfl⟩
      | true =>
        simp only [bind_run, judgeTeardown, if_true, warn, primitive_run]
        cases resetDue t
        · exact ⟨trivial, rfl, rfl, rfl⟩
        · exact ⟨trivial, trivial⟩

/-- Raising a pending error leaves the state alone. -/
theorem raisePending_keeps {Q : State → Prop} (pending : Option (Raise × ErrorRecord)) (s : State)
    (h : Q s) : Ending Q (raisePending pending s) := by
  rcases pending with _ | ⟨r, record⟩ <;> exact h

theorem sessionEnd_closes (P : Params) (phase : Nat) (failed : Bool) :
    EndsIn SessionClosed (sessionEnd P phase failed) :=
  EndsIn.bind (unraised_update _) fun _ _ =>
    ((teardown_closes P failed).2 _).bind (fun _ h => h) raisePending_keeps

/-- R197: where the cleanup of `CONFIGURE` returns or raises, the session is closed, the idle
pattern is written, and the last event says so. -/
theorem configureEnd_closes (P : Params) (failed : Bool) :
    EndsIn (fun t => SessionClosed t ∧ t.indPattern = P.indIdle
      ∧ ∃ events, t.trace = .indicator P.indIdle :: events) (configureEnd P failed) :=
  EndsIn.bind (unraised_update _) fun _ s => by
    have hu := (teardown_closes P failed).1 s
    have hc := (teardown_closes P failed).2 s
    rw [bind_run]
    cases hs : teardown P failed s with
    | error e t =>
      rw [hs] at hu
      cases e with
      | raised => exact hu.elim
      | stuck => trivial
      | reset => trivial
    | ok pending t =>
      rw [hs] at hc
      simp only [bind_run, indicator, primitive_run]
      cases resetDue t
      · exact raisePending_keeps pending _ ⟨hc, rfl, _, rfl⟩
      · trivial

/-- R266: what every exit of the cleanup block has, every exit of the operation has. -/
theorem EndsIn.withCleanup {Q : State → Prop} {body : Engine α} {cleanup : Bool → Engine Unit}
    {allowed : Write → Prop} {result : α → Prop} (hb : Within allowed result body)
    (hc : ∀ failed, EndsIn Q (cleanup failed)) : EndsIn Q (Machine.withCleanup body cleanup) := by
  intro s
  have h := hb s
  cases hs : body s with
  | ok x t =>
    have h' := hc false t
    simp only [Machine.withCleanup, hs]
    cases ht : cleanup false t <;> rw [ht] at h'
    · exact h'
    · rename_i e _; cases e <;> exact h'
  | error e t =>
    rw [hs] at h
    cases e with
    | stuck => exact h.2.elim
    | reset => rw [withCleanup_reset hs]; trivial
    | raised r record =>
      have h' := hc true t
      rw [withCleanup_raised hs]
      cases ht : cleanup true t <;> rw [ht] at h'
      · exact h'
      · rename_i e _; cases e <;> exact h'

end Sys2Proof.Machine
end

