-- ==== Sys2Proof/Laws/Encoding.lean ====
section
/-! SUPPORT. The byte-order helpers and the decoders of Decode.lean: what they invert, and what a
decoded command is. -/

namespace Sys2Proof

/-! ### Byte strings -/

@[simp] theorem beBytes_length (k x : Nat) : (beBytes k x).length = k := by
  induction k with
  | zero => rfl
  | succ k ih => simp [beBytes, ih]

theorem foldl_be (b : List Byte) (x : Nat) :
    b.foldl (fun acc byte => acc * 256 + byte.toNat) x = x * 256 ^ b.length + fromBe b := by
  induction b generalizing x with
  | nil => simp [fromBe]
  | cons y b ih =>
    simp only [List.foldl_cons, fromBe, List.length_cons]
    rw [ih, ih (0 * 256 + y.toNat)]
    simp only [Nat.pow_succ]; ring

@[simp] theorem fromBe_nil : fromBe [] = 0 := rfl

theorem fromBe_cons (y : Byte) (b : List Byte) :
    fromBe (y :: b) = y.toNat * 256 ^ b.length + fromBe b := by
  rw [fromBe, List.foldl_cons, foldl_be]; simp

theorem fromBe_append (a b : List Byte) :
    fromBe (a ++ b) = fromBe a * 256 ^ b.length + fromBe b := by
  rw [fromBe, List.foldl_append, foldl_be]; rfl

theorem fromBe_lt (b : List Byte) : fromBe b < 256 ^ b.length := by
  induction b with
  | nil => simp
  | cons y b ih =>
    rw [fromBe_cons, List.length_cons, Nat.pow_succ]
    have := y.isLt
    nlinarith

/-- R11: `be_k` and its inverse. -/
theorem fromBe_beBytes (k x : Nat) : fromBe (beBytes k x) = x % 256 ^ k := by
  induction k with
  | zero => simp [beBytes, Nat.mod_one]
  | succ k ih =>
    rw [beBytes, fromBe_cons, ih, beBytes_length, BitVec.toNat_ofNat, Nat.pow_succ (m := k),
      Nat.mod_mul, Nat.add_comm, Nat.mul_comm]

theorem beBytes_mod (k x y : Nat) : beBytes k (y * 256 ^ k + x) = beBytes k x := by
  induction k generalizing y with
  | zero => rfl
  | succ k ih =>
    have h1 : (y * 256 ^ (k + 1) + x) / 256 ^ k = y * 256 + x / 256 ^ k := by
      rw [Nat.pow_succ, show y * (256 ^ k * 256) = 256 ^ k * (y * 256) by ring,
        Nat.mul_add_div (by positivity)]
    have h2 : y * 256 ^ (k + 1) + x = (y * 256) * 256 ^ k + x := by ring
    rw [beBytes, beBytes, h1, h2, ih]
    congr 1
    apply BitVec.eq_of_toNat_eq; simp [Nat.add_mod]

theorem beBytes_fromBe (b : List Byte) : beBytes b.length (fromBe b) = b := by
  induction b with
  | nil => rfl
  | cons y b ih =>
    rw [List.length_cons, beBytes, fromBe_cons, beBytes_mod, ih, Nat.mul_comm,
      Nat.mul_add_div (by positivity), Nat.div_eq_of_lt (fromBe_lt b)]
    simp

theorem be4_eq (x : Word32) : be4 x = beBytes 4 x.toNat := by
  simp only [be4, beBytes]
  refine List.cons_eq_cons.mpr ⟨?_, List.cons_eq_cons.mpr ⟨?_, List.cons_eq_cons.mpr ⟨?_,
    List.cons_eq_cons.mpr ⟨?_, rfl⟩⟩⟩⟩ <;>
  · apply BitVec.eq_of_toNat_eq
    simp [Nat.shiftRight_eq_div_pow]

@[simp] theorem be4_length (x : Word32) : (be4 x).length = 4 := rfl
@[simp] theorem be3_length (x : BitVec 24) : (be3 x).length = 3 := rfl

@[simp] theorem ofBe4_be4 (x : Word32) :
    ofBe4 (x.extractLsb' 24 8) (x.extractLsb' 16 8) (x.extractLsb' 8 8) (x.extractLsb' 0 8) = x := by
  simp only [ofBe4]
  ext i hi
  simp
  grind

@[simp] theorem ofBe3_be3 (x : BitVec 24) :
    ofBe3 (x.extractLsb' 16 8) (x.extractLsb' 8 8) (x.extractLsb' 0 8) = x := by
  simp only [ofBe3]
  ext i hi
  simp
  grind

@[simp] theorem be4_ofBe4 (b3 b2 b1 b0 : Byte) : be4 (ofBe4 b3 b2 b1 b0) = [b3, b2, b1, b0] := by
  simp only [be4, ofBe4]
  refine List.cons_eq_cons.mpr ⟨?_, List.cons_eq_cons.mpr ⟨?_, List.cons_eq_cons.mpr ⟨?_,
    List.cons_eq_cons.mpr ⟨?_, rfl⟩⟩⟩⟩ <;>
  · ext i hi
    simp
    grind

theorem ofBe4_toNat (b3 b2 b1 b0 : Byte) : (ofBe4 b3 b2 b1 b0).toNat = fromBe [b3, b2, b1, b0] := by
  have h := fromBe_beBytes 4 (ofBe4 b3 b2 b1 b0).toNat
  rw [← be4_eq, be4_ofBe4] at h
  rw [h]; exact (Nat.mod_eq_of_lt (ofBe4 b3 b2 b1 b0).isLt).symm

/-! ### The host frame -/

/-- R82: the commands of the operation codes are the host commands. -/
theorem hostOperation_wellFormed {op : Byte} {command : HostFields → Instr}
    (h : hostOperation op = some command) (f : HostFields) :
    WellFormed (command f) = f.encodable := by
  unfold hostOperation at h
  split at h <;> first | contradiction | (cases h; rfl)

theorem hostOperation_encode {op : Byte} {command : HostFields → Instr}
    (h : hostOperation op = some command) (P : Params) (f : HostFields) :
    encode P (command f) = encodeHost op f := by
  unfold hostOperation at h
  have hb : op = BitVec.ofNat 8 op.toNat := by simp
  split at h <;> first | contradiction | (rename_i e; cases h; rw [hb, e]; rfl)

/-- R80: a host frame of a known operation reads back. -/
theorem decode_encodeHost {op : Byte} {command : HostFields → Instr} (P : Params) {f : HostFields}
    (h : hostOperation op = some command) (hf : f.encodable = true) :
    decode P (encodeHost op f) = .ok (command f) := by
  have hl : f.payload.length < 2 ^ 32 := by simpa [HostFields.encodable] using hf
  simp only [decode, encodeHost, be4, List.cons_append, List.nil_append, decodeHost, ofBe4_be4]
  simp [h]
  omega

/-- R80, R82: what a decoded host frame is. -/
theorem decodeHost_ok {bytes : List Byte} {i : Instr} (h : decodeHost bytes = .ok i) :
    ∃ op command f, hostOperation op = some command ∧ i = command f ∧ f.encodable = true
      ∧ encodeHost op f = ⟨.host, bytes⟩ := by
  unfold decodeHost at h
  split at h
  · split at h
    · rename_i hl
      split at h
      · rename_i op flags a3 a2 a1 a0 b3 b2 b1 b0 p3 p2 p1 p0 payload _ command hk
        cases h
        refine ⟨op, command, _, hk, rfl, ?_, ?_⟩
        · simpa [HostFields.encodable, hl] using (ofBe4 p3 p2 p1 p0).isLt
        · simp [encodeHost, hl]
      · cases h
    · cases h
  · cases h
  · cases h

/-! ### The wire frames -/

theorem fixedOperand_ok {i j : Instr} {data : List Byte} (h : fixedOperand i data = .ok j) :
    j = i ∧ data = [] := by
  unfold fixedOperand at h
  split at h
  · cases h; exact ⟨rfl, by assumption⟩
  · cases h

theorem dataOperand_ok {command : List Byte → Instr} {j : Instr} {data : List Byte}
    (h : dataOperand command data = .ok j) : j = command data ∧ data ≠ [] := by
  unfold dataOperand at h
  split at h
  · cases h
  · cases h; exact ⟨rfl, by assumption⟩

theorem fixedFlashFrame_ok {i j : Instr} {n : Nat} {rest : List Byte}
    (h : fixedFlashFrame i n rest = .ok j) : j = i := by
  unfold fixedFlashFrame at h
  split at h
  · cases h; rfl
  · cases h

theorem decodeWritePage_ok {rest : List Byte} {j : Instr} (h : decodeWritePage rest = .ok j) :
    WellFormed j = true := by
  unfold decodeWritePage at h
  split at h
  · split at h
    · cases h; rename_i h; simpa [WellFormed, pageCount] using h
    · cases h
  · cases h

theorem decodeReadPage_ok {rest : List Byte} {j : Instr} (h : decodeReadPage rest = .ok j) :
    WellFormed j = true := by
  unfold decodeReadPage at h
  split at h
  · split at h
    · cases h; rename_i h; simpa [WellFormed, pageCount] using ⟨h.1, h.2.1⟩
    · cases h
  · cases h

/-- One arm of a chain of tests: what is decoded is decoded by it or by the rest. -/
theorem ite_wellFormed {c : Prop} [Decidable c] {a b : Except DecodeError Instr} {i : Instr}
    (ha : a = .ok i → WellFormed i = true) (hb : b = .ok i → WellFormed i = true)
    (h : (if c then a else b) = .ok i) : WellFormed i = true := by
  split at h
  · exact ha h
  · exact hb h

theorem fixedOperand_wellFormed {i j : Instr} {data : List Byte} (hi : WellFormed i = true)
    (h : fixedOperand i data = .ok j) : WellFormed j = true := (fixedOperand_ok h).1 ▸ hi

theorem dataOperand_wellFormed {command : List Byte → Instr} {j : Instr} {data : List Byte}
    (hi : WellFormed (command data) = dataPresent data)
    (h : dataOperand command data = .ok j) : WellFormed j = true := by
  obtain ⟨hj, hd⟩ := dataOperand_ok h
  rw [hj, hi]
  simpa [dataPresent] using hd

theorem fixedFlashFrame_wellFormed {i j : Instr} {n : Nat} {rest : List Byte}
    (hi : WellFormed i = true) (h : fixedFlashFrame i n rest = .ok j) : WellFormed j = true :=
  fixedFlashFrame_ok h ▸ hi

theorem decodeJtag_wellFormed {P : Params} {bytes : List Byte} {i : Instr}
    (h : decodeJtag P bytes = .ok i) : WellFormed i = true := by
  cases bytes with
  | nil => cases h
  | cons opcode data =>
    refine ite_wellFormed (fixedOperand_wellFormed rfl) ?_ h
    refine ite_wellFormed (fixedOperand_wellFormed rfl) ?_
    refine ite_wellFormed (fixedOperand_wellFormed rfl) ?_
    refine ite_wellFormed (fixedOperand_wellFormed rfl) ?_
    refine ite_wellFormed (fixedOperand_wellFormed rfl) ?_
    refine ite_wellFormed (fixedOperand_wellFormed rfl) ?_
    refine ite_wellFormed (fixedOperand_wellFormed rfl) ?_
    refine ite_wellFormed (fixedOperand_wellFormed rfl) ?_
    refine ite_wellFormed (dataOperand_wellFormed rfl) ?_
    refine ite_wellFormed (fixedOperand_wellFormed rfl) ?_
    refine ite_wellFormed (fixedOperand_wellFormed rfl) ?_
    refine ite_wellFormed (dataOperand_wellFormed rfl) ?_
    refine ite_wellFormed (dataOperand_wellFormed rfl) ?_
    refine ite_wellFormed (dataOperand_wellFormed rfl) ?_
    exact fun h => nomatch h

theorem decodeFlash_wellFormed {P : Params} {bytes : List Byte} {i : Instr}
    (h : decodeFlash P bytes = .ok i) : WellFormed i = true := by
  cases bytes with
  | nil => cases h
  | cons command rest =>
    refine ite_wellFormed (fixedFlashFrame_wellFormed rfl) ?_ h
    refine ite_wellFormed (fixedFlashFrame_wellFormed rfl) ?_
    refine ite_wellFormed (fixedFlashFrame_wellFormed rfl) ?_
    refine ite_wellFormed decodeWritePage_ok ?_
    refine ite_wellFormed decodeReadPage_ok ?_
    refine ite_wellFormed (fixedFlashFrame_wellFormed rfl) ?_
    refine ite_wellFormed (fixedFlashFrame_wellFormed rfl) ?_
    refine ite_wellFormed (fixedFlashFrame_wellFormed rfl) ?_
    exact fun h => nomatch h

/-- Every command that is decoded has an encoding. -/
theorem decode_wellFormed {P : Params} {frame : CommandFrame} {i : Instr}
    (h : decode P frame = .ok i) : WellFormed i = true := by
  unfold decode at h
  split at h
  · obtain ⟨op, command, f, hk, rfl, hf, -⟩ := decodeHost_ok h
    rw [hostOperation_wellFormed hk, hf]
  · exact decodeJtag_wellFormed h
  · exact decodeFlash_wellFormed h

end Sys2Proof
end

