-- ==== Sys2Proof/Laws/Plan.lean ====
section
/-! SUPPORT. What the engine's operations do on a link that answers: each shared operation whose
plan (Safety.lean) is ready runs it to its end. -/

namespace Sys2Proof.Machine

/-! ### The link -/

theorem supplies_cons {s : State} {b : Bool} {bits : List Bool} (h : Supplies s (b :: bits)) :
    linkAnswer s = .bit b ∧ s.resets = [] ∧ bits.map LinkAnswer.bit <+: s.link.tail := by
  obtain ⟨hr, rest, h⟩ := h
  simp only [linkAnswer, ← h]
  exact ⟨rfl, hr, rest, rfl⟩

theorem supplies_append {s : State} {a b : List Bool} (h : Supplies s (a ++ b)) :
    Supplies s a ∧ s.resets = [] ∧ b.map LinkAnswer.bit <+: s.link.drop a.length := by
  obtain ⟨hr, rest, h⟩ := h
  refine ⟨⟨hr, b.map .bit ++ rest, by simpa using h⟩, hr, rest, ?_⟩
  rw [← h]; simp

theorem supplies_nil {s : State} (h : s.resets = []) : Supplies s [] := ⟨h, s.link, rfl⟩

/-! ### Ticks -/

@[simp] theorem ticked_tapState (pins : List Pins) (tdo : List Bool) (s : State) :
    (ticked pins tdo s).tapState = walkState s.tapState (pins.map Prod.fst) := rfl
@[simp] theorem ticked_link (pins : List Pins) (tdo : List Bool) (s : State) :
    (ticked pins tdo s).link = s.link.drop pins.length := rfl
@[simp] theorem ticked_tapBitbang (pins : List Pins) (tdo : List Bool) (s : State) :
    (ticked pins tdo s).tapBitbang = s.tapBitbang := rfl

@[simp] theorem ticked_resets (pins : List Pins) (tdo : List Bool) (s : State) :
    (ticked pins tdo s).resets = s.resets := rfl

@[simp] theorem ticked_nil (tdo : List Bool) (s : State) : ticked [] tdo s = s := by
  simp [ticked, walkState]

theorem ticked_cons (p : Pins) (b : Bool) (pins : List Pins) (tdo : List Bool) (s : State) :
    ticked (p :: pins) (b :: tdo) s = ticked pins tdo (afterTick p.1 p.2 b s) := by
  simp [ticked, walkState, afterTick, emit, nextLink, Nat.add_comm, Nat.add_left_comm]

theorem ticked_append (p q : List Pins) (a b : List Bool) (s : State) (h : a.length = p.length) :
    ticked (p ++ q) (a ++ b) s = ticked q b (ticked p a s) := by
  induction p generalizing a s with
  | nil => simp_all
  | cons x p ih =>
    cases a with
    | nil => simp at h
    | cons y a => simp only [List.cons_append, ticked_cons]; exact ih a _ (by simpa using h)

/-- R145, R146, R150: a walk on a link that answers each tick. -/
theorem walk_ticked {tms tdo : List Bool} {s : State} (hs : Supplies s tdo)
    (hl : tdo.length = tms.length) :
    walk tms s = .ok () (ticked (tms.map fun t => (t, false)) tdo s) := by
  induction tms generalizing tdo s with
  | nil => cases tdo with
    | nil => simp [walk]
    | cons => simp at hl
  | cons t tms ih => cases tdo with
    | nil => simp at hl
    | cons b tdo =>
      obtain ⟨h1, hr, h2⟩ := supplies_cons hs
      rw [walk, bind_ok (tick_bit hr h1), List.map_cons, ticked_cons]
      exact ih (s := afterTick t false b s) ⟨hr, h2⟩ (by simpa using hl)

theorem valueOfBits_append_one (bits : List Bool) (b : Bool) :
    valueOfBits (bits ++ [b]) = valueOfBits bits + b.toNat * 2 ^ bits.length := by
  induction bits with
  | nil => simp [valueOfBits]
  | cons x bits ih =>
    have hx : ∀ l, valueOfBits (x :: l) = x.toNat + 2 * valueOfBits l := fun _ => rfl
    rw [List.cons_append, hx, hx, ih, List.length_cons, Nat.pow_succ]
    ring

/-- R147: the shift ticks on a link that answers, with what was captured before. -/
theorem shiftBits_ticked {leave : Bool} {bits tdo done : List Bool} {s : State}
    (hs : Supplies s tdo) (hl : tdo.length = bits.length) (hi : s.shIn = ofBits done) :
    shiftBits leave bits s
      = .ok () { ticked (shiftPins leave bits) tdo s with shIn := ofBits (done ++ tdo) } := by
  induction bits generalizing tdo done s with
  | nil => cases tdo with
    | nil => simp [shiftBits, shiftPins, ← hi]
    | cons => simp at hl
  | cons t bits ih => cases tdo with
    | nil => simp at hl
    | cons b tdo =>
      obtain ⟨h1, hr, h2⟩ := supplies_cons hs
      rw [shiftBits, bind_ok (tick_bit hr h1), bind_ok (update_run _ _), shiftPins, ticked_cons,
        ih (s := captureBit b (afterTick _ t b s)) (done := done ++ [b]) (tdo := tdo) ⟨hr, h2⟩
          (by simpa using hl)]
      · simp only [List.append_assoc, List.singleton_append]
        rfl
      · simp [hi, ofBits, valueOfBits_append_one]

/-! ### Moves -/

/-- R144: the path leads where it says. -/
theorem walkState_path (source target : TapState) :
    walkState source (path source target) = target := by
  cases source <;> cases target <;> rfl

@[simp] theorem movePins_tms (source target : TapState) :
    (movePins source target).map Prod.fst = path source target := by
  simp [movePins, Function.comp_def]

@[simp] theorem movePins_length (source target : TapState) :
    (movePins source target).length = (path source target).length := by simp [movePins]

theorem moveToState_ticked {target : TapState} {tdo : List Bool} {s : State}
    (hs : Supplies s tdo) (hl : tdo.length = (path s.tapState target).length) :
    moveToState target s = .ok () (ticked (movePins s.tapState target) tdo s) := by
  rw [moveToState, bind_ok (observe_run _ _)]
  exact walk_ticked hs hl

/-! ### Register shifts -/

@[simp] theorem shiftPins_length (leave : Bool) (bits : List Bool) :
    (shiftPins leave bits).length = bits.length := by
  induction bits with
  | nil => rfl
  | cons b bits ih => simp [shiftPins, ih]

@[simp] theorem bitsOf_length (v : BitVector) : (bitsOf v).length = v.len := by simp [bitsOf]

/-- R147: where the shift ticks leave the TAP. -/
theorem walkState_shiftPins {t : TapState} (ht : nextState t false = t) (leave : Bool)
    {bits : List Bool} (hb : bits ≠ []) :
    walkState t ((shiftPins leave bits).map Prod.fst)
      = if leave then nextState t true else t := by
  induction bits with
  | nil => exact absurd rfl hb
  | cons b bits ih =>
    cases bits with
    | nil => cases leave <;> simp [shiftPins, walkState, ht]
    | cons c bits =>
      have := ih (by simp)
      simpa [shiftPins, walkState, ht] using this

/-- R147: a register shift on a link that answers every tick of it. -/
theorem shiftReg_scanned {shiftState stateAfter : TapState} {v : BitVector} {c : Scan} {s : State}
    (ht : nextState shiftState false = shiftState)
    (hf : c.fits s.tapState shiftState v.len stateAfter) (hs : Supplies s c.tdo) :
    shiftReg shiftState v stateAfter s
      = .ok (ofBits c.word) (scanned shiftState v stateAfter c s) := by
  obtain ⟨hv, f1, f2, f3⟩ := hf
  obtain ⟨h12, h3⟩ := supplies_append hs
  obtain ⟨h1, h2⟩ := supplies_append h12
  have hb : bitsOf v ≠ [] := by
    intro h; have := congrArg List.length h; simp at this; omega
  have htap : walkState (ticked (movePins s.tapState shiftState) c.enter s).tapState
      ((shiftPins (stateAfter ≠ shiftState) (bitsOf v)).map Prod.fst)
        = shiftExit shiftState stateAfter := by
    rw [ticked_tapState, movePins_tms, walkState_path, walkState_shiftPins ht _ hb]
    by_cases h : stateAfter = shiftState <;> simp [h, shiftExit]
  rw [shiftReg, bind_ok (moveToState_ticked h1 f1), bind_ok (update_run _ _),
    bind_ok (shiftBits_ticked (tdo := c.word) (done := []) (by simpa [Supplies, f1] using h2)
      (by simpa using f2) rfl)]
  rw [bind_ok (moveToState_ticked (tdo := c.leave)
    (by simpa [Supplies, List.drop_drop, f1, f2] using h3)
    (f3.trans (congrArg (fun t => (path t stateAfter).length) htap.symm)))]
  refine congrArg (EStateM.Result.ok (ofBits c.word)) ?_
  refine (congrArg (fun t => ticked (movePins t stateAfter) c.leave
    { ticked (shiftPins (stateAfter ≠ shiftState) (bitsOf v)) c.word
        (loadShift v (ticked (movePins s.tapState shiftState) c.enter s)) with
      shIn := ofBits c.word }) htap).trans ?_
  simp only [scanned, scanPins, Scan.tdo]
  rw [ticked_append _ _ _ _ _ (by simp [f1, f2]), ticked_append _ _ _ _ _ (by simp [f1])]
  rfl

theorem walkState_scanPins (source : TapState) {shiftState stateAfter : TapState} {v : BitVector}
    (ht : nextState shiftState false = shiftState) (hv : 0 < v.len) :
    walkState source ((scanPins source shiftState v stateAfter).map Prod.fst) = stateAfter := by
  have hb : bitsOf v ≠ [] := by
    intro h; have := congrArg List.length h; simp at this; omega
  have : ∀ t a b, walkState t (a ++ b) = walkState (walkState t a) b := by
    simp [walkState]
  simp only [scanPins, List.map_append, this, movePins_tms, walkState_path,
    walkState_shiftPins ht _ hb]
  by_cases h : stateAfter = shiftState
  · subst h; simp [shiftExit, walkState_path]
  · simp [h, shiftExit, walkState_path]

/-! ### Plans -/

variable {s : State}

theorem walkState_idlePins {t : TapState} (ht : nextState t false = t) (n : Nat) :
    walkState t ((idlePins n).map Prod.fst) = t := by
  induction n with
  | zero => rfl
  | succ n ih => simpa [idlePins, List.replicate_succ, walkState, ht] using ih

theorem isRunState_held {t : TapState} (h : isRunState t = true) : nextState t false = t := by
  cases t <;> first | rfl | cases h

/-- The steps of a plan end where it says. -/
theorem Act.apply_tapState {a : Act} {s : State} (hf : a.fits s.tapState) :
    (a.apply s).tapState = a.tapAfter s.tapState := by
  cases a with
  | move target tdo => simp [Act.apply, Act.tapAfter, walkState_path]
  | instruction opc length stateAfter c =>
    exact walkState_scanPins s.tapState (v := ⟨length, opc⟩) rfl hf.1
  | data v stateAfter c => exact walkState_scanPins s.tapState rfl hf.1
  | run cycles runState tdo =>
    have : walkState s.tapState ((movePins s.tapState runState ++ idlePins cycles).map Prod.fst)
        = walkState (walkState s.tapState (path s.tapState runState))
          ((idlePins cycles).map Prod.fst) := by
      rw [List.map_append, movePins_tms]; simp [walkState]
    exact this.trans (by rw [walkState_path, walkState_idlePins (isRunState_held hf.1)]; rfl)
  | _ => rfl

/-- The steps of a plan take their own bits off the link. -/
theorem Act.apply_link {a : Act} {s : State} (hf : a.fits s.tapState) :
    (a.apply s).link = s.link.drop a.tdo.length := by
  cases a with
  | move target tdo =>
    simp only [Act.fits] at hf
    simp [Act.apply, Act.tdo, hf]
  | reset tdo =>
    simp only [Act.fits] at hf
    simp [Act.apply, Act.tdo, hf]
  | instruction opc length stateAfter c =>
    obtain ⟨-, h1, h2, h3⟩ := hf
    simp [Act.apply, Act.tdo, scanned, scanPins, Scan.tdo, h1, h2, h3]
  | data v stateAfter c =>
    obtain ⟨-, h1, h2, h3⟩ := hf
    simp [Act.apply, Act.tdo, scanned, scanPins, Scan.tdo, h1, h2, h3]
  | run cycles runState tdo =>
    simp only [Act.fits] at hf
    simp [Act.apply, Act.tdo, hf.2, idlePins]
  | _ => rfl

theorem Act.apply_owner (a : Act) (s : State) : (a.apply s).tapOwner = s.tapOwner := by
  cases a <;> rfl

@[simp] theorem Act.apply_resets (a : Act) (s : State) : (a.apply s).resets = s.resets := by
  cases a <;> rfl

@[simp] theorem performed_nil (s : State) : performed [] s = s := rfl
@[simp] theorem performed_cons (a : Act) (plan : List Act) (s : State) :
    performed (a :: plan) s = performed plan (a.apply s) := rfl
@[simp] theorem performed_resets (plan : List Act) (s : State) :
    (performed plan s).resets = s.resets := by
  induction plan generalizing s with
  | nil => rfl
  | cons a plan ih => rw [performed_cons, ih, Act.apply_resets]

theorem performed_append (p q : List Act) (s : State) :
    performed (p ++ q) s = performed q (performed p s) := List.foldl_append ..

theorem ready_nil (h : s.resets = []) : Ready [] s := ⟨trivial, supplies_nil h⟩

theorem Ready.resets {plan : List Act} (h : Ready plan s) : s.resets = [] := h.2.1

/-- A ready plan is ready step by step. -/
theorem ready_cons {a : Act} {plan : List Act} {s : State} (h : Ready (a :: plan) s) :
    (a.fits s.tapState ∧ Supplies s a.tdo) ∧ Ready plan (a.apply s) := by
  obtain ⟨⟨hf, hp⟩, hs⟩ := h
  obtain ⟨h1, h2⟩ := supplies_append (a := a.tdo) (b := planTdo plan) hs
  refine ⟨⟨hf, h1⟩, ?_, ?_⟩
  · rw [Act.apply_tapState hf]; exact hp
  · rw [Supplies, Act.apply_link hf, Act.apply_resets]; exact h2

theorem ready_append {p q : List Act} {s : State} (h : Ready (p ++ q) s) :
    Ready p s ∧ Ready q (performed p s) := by
  induction p generalizing s with
  | nil => exact ⟨ready_nil h.resets, h⟩
  | cons a p ih =>
    obtain ⟨h1, h2⟩ := ready_cons h
    obtain ⟨h3, h4⟩ := ih h2
    refine ⟨⟨⟨h1.1, ?_⟩, ?_⟩, h4⟩
    · rw [← Act.apply_tapState h1.1]; exact h3.1
    · obtain ⟨-, rest, hr⟩ := h3.2
      rw [Act.apply_link h1.1] at hr
      obtain ⟨h0, t, ht⟩ := h1.2
      refine ⟨h0, rest, ?_⟩
      rw [← ht] at hr ⊢
      simp only [planTdo, List.flatMap_cons, List.map_append, List.append_assoc] at hr ⊢
      rw [hr, List.drop_left' (by simp)]

/-- A plan's bits, and nothing before them, on the link make it ready. -/
theorem ready_of_fits {plan : List Act} (hr : s.resets = []) (hf : planFits plan s.tapState)
    (hl : s.link = (planTdo plan).map .bit) : Ready plan s :=
  ⟨hf, hr, ⟨[], by rw [hl, List.append_nil]⟩⟩

/-! ### The operations on a link that answers -/

theorem moveToState_act {target : TapState} {tdo : List Bool} {s : State}
    (h : (Act.move target tdo).fits s.tapState ∧ Supplies s (Act.move target tdo).tdo) :
    moveToState target s = .ok () ((Act.move target tdo).apply s) := moveToState_ticked h.2 h.1

theorem tapReset_act {tdo : List Bool} {s : State}
    (h : (Act.reset tdo).fits s.tapState ∧ Supplies s (Act.reset tdo).tdo) :
    tapReset s = .ok () ((Act.reset tdo).apply s) := by
  rw [tapReset, bind_ok (walk_ticked (tms := List.replicate 5 true) h.2
    (h.1.trans (by simp)))]
  rfl

theorem shiftInstruction_act {opc length : Nat} {stateAfter : TapState} {c : Scan} {s : State}
    (h : (Act.instruction opc length stateAfter c).fits s.tapState
      ∧ Supplies s (Act.instruction opc length stateAfter c).tdo) :
    shiftInstruction opc length stateAfter s
      = .ok (ofBits c.word) ((Act.instruction opc length stateAfter c).apply s) := by
  have h0 : length ≠ 0 := Nat.pos_iff_ne_zero.mp h.1.1
  have hr : refuseIf (decide (length = 0)) .badLength s = .ok () s := by simp [h0]
  rw [shiftInstruction, bind_ok hr, bind_ok (shiftReg_scanned (v := fromInt opc length) rfl h.1 h.2)]
  rfl

theorem shiftData_act {tdi : Option BitVector} {length : Nat} {stateAfter : TapState} {c : Scan}
    {s : State} {v : BitVector} (hv : tdi.getD (ones length) = v) (hl : v.len = length)
    (h : (Act.data v stateAfter c).fits s.tapState ∧ Supplies s (Act.data v stateAfter c).tdo) :
    shiftData tdi length stateAfter s = .ok (ofBits c.word) ((Act.data v stateAfter c).apply s) := by
  have h0 : length ≠ 0 := hl ▸ Nat.pos_iff_ne_zero.mp h.1.1
  have hr : refuseIf (decide (length = 0)) .badLength s = .ok () s := by simp [h0]
  rw [shiftData, bind_ok hr, hv, bind_ok (shiftReg_scanned rfl h.1 h.2)]
  rfl

theorem runTest_act {cycles : Nat} {runState : TapState} {tdo : List Bool} {s : State}
    (h : (Act.run cycles runState tdo).fits s.tapState
      ∧ Supplies s (Act.run cycles runState tdo).tdo) :
    runTest cycles runState s = .ok () ((Act.run cycles runState tdo).apply s) := by
  obtain ⟨⟨hr, hl⟩, hs⟩ := h
  obtain ⟨a, b, rfl, ha⟩ : ∃ a b, tdo = a ++ b ∧ a.length = (path s.tapState runState).length :=
    ⟨tdo.take (path s.tapState runState).length, tdo.drop (path s.tapState runState).length,
      (List.take_append_drop _ _).symm, by rw [List.length_take]; omega⟩
  obtain ⟨h1, h2⟩ := supplies_append hs
  have hc : refuseIf (!isRunState runState) .badState s = .ok () s := by simp [hr]
  rw [runTest, bind_ok hc, bind_ok (moveToState_ticked h1 ha),
    walk_ticked (tdo := b) (by simpa [Supplies, ha] using h2) (by simpa [ha] using hl)]
  simp only [Act.apply, idlePins]
  rw [ticked_append _ _ _ _ _ (by simp [ha])]
  simp

end Sys2Proof.Machine
end

