-- ==== Sys2Proof/Laws/Sequences.lean ====
section
/-! SUPPORT. What the micro-operations of the sequencers do on a link that answers: each runs its
plan of Safety.lean. -/

namespace Sys2Proof.Machine

variable {P : Params} {s : State}

theorem toInt_ofBits (bits : List Bool) : toInt (ofBits bits) = valueOfBits bits := rfl

@[simp] theorem ones_len (n : Nat) : (ones n).len = n := rfl

@[simp] theorem bitrevAll_len (v : BitVector) : (bitrevAll v).len = v.len := by
  simp [bitrevAll, ofBits]

@[simp] theorem toWire_len (b : List Byte) : (toWire b).len = 8 * b.length := by
  simp [toWire, fromBytes]

/-! ### TAPC -/

theorem enumerateLoop_full (n : Nat) {words : List Scan} {devices : List JtagDevice}
    (hn : words.length = n) (hv : ∀ c ∈ words, noDeviceId c.word32 = false)
    (h : Ready (enumeratePlan words) s) :
    enumerateLoop P n devices s
      = .ok (devices ++ words.map fun c => ⟨c.word32, partLookup P c.word32⟩)
          (performed (enumeratePlan words) s) := by
  induction words generalizing n devices s with
  | nil => subst hn; simp [enumerateLoop, enumeratePlan]
  | cons c words ih =>
    subst hn
    obtain ⟨h1, h2⟩ := ready_cons h
    rw [List.length_cons, enumerateLoop]
    refine (bind_ok (shiftData_act (tdi := none) (v := ones 32) rfl rfl h1)).trans ?_
    have hc : noDeviceId (BitVec.ofNat 32 (toInt (ofBits c.word))) = false := hv c (by simp)
    simp only [hc, Bool.false_eq_true, if_false]
    rw [ih _ rfl (fun c hc => hv c (by simp [hc])) h2, List.append_assoc]
    rfl

theorem enumerateLoop_ended (n : Nat) {words : List Scan} {last : Scan} {devices : List JtagDevice}
    (hn : words.length < n) (hv : ∀ c ∈ words, noDeviceId c.word32 = false)
    (hl : noDeviceId last.word32 = true) (h : Ready (enumeratePlan (words ++ [last])) s) :
    enumerateLoop P n devices s
      = .ok (devices ++ words.map fun c => ⟨c.word32, partLookup P c.word32⟩)
          (performed (enumeratePlan (words ++ [last])) s) := by
  induction words generalizing n devices s with
  | nil =>
    obtain ⟨n, rfl⟩ := Nat.exists_eq_succ_of_ne_zero (Nat.pos_iff_ne_zero.mp hn)
    obtain ⟨h1, h2⟩ := ready_cons h
    rw [enumerateLoop]
    refine (bind_ok (shiftData_act (tdi := none) (v := ones 32) rfl rfl h1)).trans ?_
    have hc : noDeviceId (BitVec.ofNat 32 (toInt (ofBits last.word))) = true := hl
    simp only [hc, if_true]
    simp [enumeratePlan]
  | cons c words ih =>
    obtain ⟨n, rfl⟩ := Nat.exists_eq_succ_of_ne_zero (n := n) (by omega)
    obtain ⟨h1, h2⟩ := ready_cons h
    rw [enumerateLoop]
    refine (bind_ok (shiftData_act (tdi := none) (v := ones 32) rfl rfl h1)).trans ?_
    have hc : noDeviceId (BitVec.ofNat 32 (toInt (ofBits c.word))) = false := hv c (by simp)
    simp only [hc, Bool.false_eq_true, if_false]
    rw [ih n (by simpa using hn) (fun c hc => hv c (by simp [hc])) h2, List.append_assoc]
    rfl

/-! ### CFGSEQ -/

theorem readStatus_plan {c : ScanPair} (h : Ready (statusPlan P c) s) :
    readStatus P s = .ok c.data.word32 (performed (statusPlan P c) s) := by
  obtain ⟨-, h⟩ := ready_cons h
  obtain ⟨h1, h⟩ := ready_cons h
  obtain ⟨h2, -⟩ := ready_cons h
  rw [readStatus]
  refine (bind_ok (setOpcode_run _ _)).trans ?_
  refine (bind_ok (shiftInstruction_act h1)).trans ?_
  refine (bind_ok (shiftData_act (tdi := none) rfl rfl h2)).trans ?_
  rfl

theorem warnViolations_run (status : Word32) (l : List Violation) (hr : s.resets = []) :
    warnViolations status l s
      = .ok () (performed (l.map fun v => .warn (.statusViolation v status)) s) := by
  induction l generalizing s with
  | nil => rfl
  | cons v l ih => rw [warnViolations, bind_ok (warn_run _ hr), ih (by exact hr)]; rfl

/-- R190: all that a status check can do: warnings, then perhaps one `ProtocolViolation`. -/
theorem validateStatus_run (status : Word32) (check : StatusCheck) (hr : s.resets = []) :
    validateStatus P status check s
      = match check.continueAnyway,
          violations (decodeStatus P status) check.requireDone check.requireIsc with
        | false, v :: _ =>
          .error (.raised (.protocolViolation v (decodeStatus P status).errcode status)
            (errorRecord (.protocolViolation v (decodeStatus P status).errcode status)
              (performed (validatePlan P status check) s)))
            (performed (validatePlan P status check) s)
        | _, _ => .ok () (performed (validatePlan P status check) s) := by
  simp only [validateStatus, validatePlan]
  cases (decodeStatus P status).spiFail <;> cases check.continueAnyway <;>
    cases hv : violations (decodeStatus P status) check.requireDone check.requireIsc <;>
    simp [judgeViolations, warnViolations_run, warn_run, bind_run, Act.apply, hr]

theorem validateStatus_passes {status : Word32} {check : StatusCheck} (hr : s.resets = [])
    (h : passes P status check) :
    validateStatus P status check s = .ok () (performed (validatePlan P status check) s) := by
  rw [validateStatus_run _ _ hr]
  rcases h with h | h
  · simp [h]
  · simp [h]

theorem checkStatus_plan {check : StatusCheck} {c : ScanPair}
    (hp : passes P c.data.word32 check) (h : Ready (checkPlan P check c) s) :
    checkStatus P check s = .ok () (performed (checkPlan P check c) s) := by
  obtain ⟨h1, h2⟩ := ready_append h
  rw [checkStatus]
  refine (bind_ok (readStatus_plan h1)).trans ?_
  rw [validateStatus_passes h2.resets hp, checkPlan, performed_append]

/-- R186: a command, then its check. -/
theorem execCommand_plan {opc : Byte} {operand : Option BitVector} {idle : Nat}
    {idleState : TapState} {check : Option StatusCheck} {c : CommandScans}
    (h : Ready (commandPlan opc operand idle idleState c) s) :
    ∃ r, execCommand P opc operand idle idleState check s
      = (do shiftCheck P check; pure r : Engine _)
          (performed (commandPlan opc operand idle idleState c) s) := by
  cases operand with
  | none =>
    obtain ⟨-, h⟩ := ready_cons h
    obtain ⟨h1, h⟩ := ready_cons h
    obtain ⟨h2, -⟩ := ready_cons h
    refine ⟨none, ?_⟩
    rw [execCommand]
    refine (bind_ok (setOpcode_run _ _)).trans ?_
    refine (bind_ok (shiftInstruction_act h1)).trans ?_
    refine (bind_ok (x := none) (show shiftOperand none _ = _ from rfl)).trans ?_
    refine (bind_ok (runTest_act h2)).trans ?_
    rfl
  | some v =>
    obtain ⟨-, h⟩ := ready_cons h
    obtain ⟨h1, h⟩ := ready_cons h
    obtain ⟨h2, h⟩ := ready_cons h
    obtain ⟨h3, -⟩ := ready_cons h
    refine ⟨some (ofBits c.operand.word), ?_⟩
    rw [execCommand]
    refine (bind_ok (setOpcode_run _ _)).trans ?_
    refine (bind_ok (shiftInstruction_act h1)).trans ?_
    refine (bind_ok (x := some (ofBits c.operand.word)) (s' := _) (show shiftOperand (some v) _ = _ from bind_ok (shiftData_act rfl rfl h2))).trans ?_
    refine (bind_ok (runTest_act h3)).trans ?_
    rfl

theorem execCommand_unchecked {opc : Byte} {operand : Option BitVector} {idle : Nat}
    {idleState : TapState} {c : CommandScans}
    (h : Ready (commandPlan opc operand idle idleState c) s) :
    ∃ r, execCommand P opc operand idle idleState none s
      = .ok r (performed (commandPlan opc operand idle idleState c) s) :=
  (execCommand_plan h).imp fun _ h => h

theorem execCommand_checked {opc : Byte} {operand : Option BitVector} {idle : Nat}
    {idleState : TapState} {check : StatusCheck} {c : CommandScans} {status : ScanPair}
    (hp : passes P status.data.word32 check)
    (h : Ready (commandPlan opc operand idle idleState c ++ checkPlan P check status) s) :
    ∃ r, execCommand P opc operand idle idleState (some check) s
      = .ok r (performed (commandPlan opc operand idle idleState c
          ++ checkPlan P check status) s) := by
  obtain ⟨h1, h2⟩ := ready_append h
  obtain ⟨r, hr⟩ := execCommand_plan (P := P) (check := some check) h1
  exact ⟨r, by rw [hr, shiftCheck, bind_ok (checkStatus_plan hp h2), performed_append]; rfl⟩

/-- R191, R219, R220: a poll that is done at once. -/
theorem pollUntil_first {poll : Engine Bool} {timeout : Nat} {awaited : Byte} {s s' : State}
    (hr : s.resets = []) (h : poll (Act.clockRead.apply s) = .ok true s') :
    pollUntil P timeout awaited poll s = .ok () s' := by
  rw [pollUntil]
  refine (bind_ok (now_run hr)).trans ?_
  rw [pollLoop]
  exact (bind_ok h).trans rfl

theorem waitForCompletion_plan {timeout : Nat} {c : ScanPair} (h : Ready (waitPlan P c) s)
    (hb : (decodeStatus P c.data.word32).busy = false) :
    waitForCompletion P timeout s = .ok () (performed (waitPlan P c) s) := by
  have hr := h.resets
  obtain ⟨-, h⟩ := ready_cons h
  rw [waitForCompletion]
  refine (bind_ok (observe_run _ _)).trans ?_
  refine pollUntil_first hr ?_
  rw [pollNotBusy]
  refine (bind_ok (readStatus_plan h)).trans ?_
  simp [hb, waitPlan]

theorem restart_plan {c : CommandScans} (h : Ready (restartPlan P c) s) :
    restart P s = .ok () (performed (restartPlan P c) s) := by
  unfold restart
  unfold restartPlan at h ⊢
  cases hm : P.restartMode
  · simp only [hm] at h ⊢
    obtain ⟨r, hr⟩ := execCommand_unchecked (P := P) h
    refine (bind_ok hr).trans ?_; rfl
  · exact programPulse_run h.resets

theorem preconfigure_plan {c : CommandScans} (h : Ready (preconfigurePlan P c) s) :
    preconfigure P s = .ok () (performed (preconfigurePlan P c) s) := by
  obtain ⟨r, hr⟩ := execCommand_unchecked (P := P) h
  rw [preconfigure]
  refine (bind_ok hr).trans ?_; rfl

theorem initAddress_plan {c : CommandScans} (h : Ready (initAddressPlan P c) s) :
    initAddress P s = .ok () (performed (initAddressPlan P c) s) := by
  obtain ⟨r, hr⟩ := execCommand_unchecked (P := P) h
  rw [initAddress]
  refine (bind_ok hr).trans ?_; rfl

theorem iscErase_plan {c : CommandScans} (h : Ready (iscErasePlan P c) s) :
    iscErase P s = .ok () (performed (iscErasePlan P c) s) := by
  obtain ⟨r, hr⟩ := execCommand_unchecked (P := P) h
  rw [iscErase]
  refine (bind_ok hr).trans ?_; rfl

theorem iscDisable_plan {c : CommandScans} (h : Ready (iscDisablePlan P c) s) :
    iscDisable P none s = .ok () (performed (iscDisablePlan P c) s) := by
  obtain ⟨-, h⟩ := ready_cons h
  obtain ⟨r, hr⟩ := execCommand_unchecked (P := P) h
  rw [iscDisable, setIsc]
  refine (bind_ok (update_run _ _)).trans ?_
  exact (bind_ok hr).trans rfl

theorem iscDisable_checked {check : StatusCheck} {c : CommandScans} {status : ScanPair}
    (hp : passes P status.data.word32 check)
    (h : Ready (iscDisablePlan P c ++ checkPlan P check status) s) :
    iscDisable P (some check) s
      = .ok () (performed (iscDisablePlan P c ++ checkPlan P check status) s) := by
  rw [iscDisablePlan, List.cons_append] at h ⊢
  replace h := (ready_cons h).2
  obtain ⟨r, hr⟩ := execCommand_checked (P := P) hp h
  rw [iscDisable, setIsc]
  refine (bind_ok (update_run _ _)).trans ?_
  refine (bind_ok hr).trans ?_
  rw [performed_cons]
  rfl

theorem iscEnable_plan {c : CommandScans} {status : ScanPair}
    (hp : passes P status.data.word32 ⟨false, true, false⟩)
    (h : Ready (iscEnablePlan P c status) s) :
    iscEnable P s = .ok () (performed (iscEnablePlan P c status) s) := by
  rw [iscEnablePlan, List.cons_append] at h ⊢
  replace h := (ready_cons h).2
  obtain ⟨r, hr⟩ := execCommand_checked (P := P) hp h
  rw [iscEnable, setIsc]
  refine (bind_ok (update_run _ _)).trans ?_
  refine (bind_ok hr).trans ?_
  rw [performed_cons]
  rfl

theorem readPartId_plan {c : ScanPair} (hd : noDeviceId c.data.word32 = false)
    (h : Ready (partIdPlan P c) s) :
    readPartId P s = .ok c.data.word32 (performed (partIdPlan P c) s) := by
  obtain ⟨-, h⟩ := ready_cons h
  obtain ⟨h1, h⟩ := ready_cons h
  obtain ⟨h2, -⟩ := ready_cons h
  have hd' : noDeviceId (BitVec.ofNat 32 (toInt (ofBits c.data.word))) = false := hd
  rw [readPartId]
  refine (bind_ok (setOpcode_run _ _)).trans ?_
  refine (bind_ok (shiftInstruction_act h1)).trans ?_
  refine (bind_ok (shiftData_act (tdi := none) rfl rfl h2)).trans ?_
  simp only [hd', Bool.false_eq_true, if_false]
  rfl

theorem eraseAndWait_plan {erase : CommandScans} {poll check : ScanPair}
    (hb : (decodeStatus P poll.data.word32).busy = false)
    (h : Ready (erasePlan P erase poll check) s) :
    eraseAndWait P s = .ok () (performed (erasePlan P erase poll check) s) := by
  obtain ⟨h12, h3⟩ := ready_append h
  obtain ⟨h1, h2⟩ := ready_append h12
  rw [eraseAndWait]
  refine (bind_ok (iscErase_plan h1)).trans ?_
  refine (bind_ok (waitForCompletion_plan h2 hb)).trans ?_
  rw [performed_append] at h3
  rw [checkStatus_plan (.inl rfl) h3, erasePlan, performed_append, performed_append]

theorem burst_plan {bitstream : List Byte} {c : ScanPair}
    (h : Ready (burstPlan P bitstream c) s) :
    burst P bitstream s = .ok () (performed (burstPlan P bitstream c) s) := by
  obtain ⟨-, h⟩ := ready_cons h
  obtain ⟨h1, h⟩ := ready_cons h
  obtain ⟨h2, -⟩ := ready_cons h
  rw [burst]
  refine (bind_ok (setOpcode_run _ _)).trans ?_
  refine (bind_ok (shiftInstruction_act h1)).trans ?_
  refine (bind_ok (shiftData_act (tdi := some (toWire bitstream)) rfl (toWire_len _) h2)).trans ?_
  rfl

/-- R196: the end of a session in IDLE, with ISC not active. -/
theorem sessionEnd_plan {phase : Nat} {failed : Bool} (hi : s.cfgIsc = false)
    (h : Ready (sessionEndPlan phase) s) :
    sessionEnd P phase failed s = .ok () (performed (sessionEndPlan phase) s) := by
  obtain ⟨-, h⟩ := ready_cons h
  obtain ⟨h1, -⟩ := ready_cons h
  have ht : teardownPins P { s with seqPhase := phase }
      = .ok () ((Act.move .idle []).apply { s with seqPhase := phase }) := by
    rw [teardownPins]
    refine (bind_ok (observe_run _ _)).trans ?_
    simp only [hi]
    exact (bind_ok rfl).trans (moveToState_act h1)
  rw [sessionEnd]
  refine (bind_ok (setPhase_run _ _)).trans ?_
  rw [teardown]
  simp only [bind_run, attempt, ht, judgeTeardown, pure_run, update_run, raisePending]
  rfl

/-! ### SPIB, flash half -/

theorem enterBackgroundSpi_plan {c : CommandScans} (h : Ready (backgroundSpiPlan P c) s) :
    enterBackgroundSpi P s = .ok () (performed (backgroundSpiPlan P c) s) := by
  obtain ⟨h1, -⟩ := ready_append h
  obtain ⟨r, hr⟩ := execCommand_unchecked (P := P) h1
  rw [enterBackgroundSpi]
  refine (bind_ok hr).trans ?_
  rw [backgroundSpiPlan, performed_append]; rfl

theorem bgSpiTransfer_plan {out : List Byte} {c : Scan} (h : Ready (transferPlan out c) s) :
    bgSpiTransfer out s = .ok c.wireBytes (performed (transferPlan out c) s) := by
  obtain ⟨-, h⟩ := ready_cons h
  obtain ⟨h1, -⟩ := ready_cons h
  rw [bgSpiTransfer]
  refine (bind_ok (setOpcode_run _ _)).trans ?_
  refine (bind_ok (shiftData_act (tdi := some (toWire out)) rfl (toWire_len _) h1)).trans ?_
  rfl

theorem flashStatus_plan {c : Scan} (h : Ready (flashStatusPlan P c) s) :
    flashStatus P s = .ok c.flashStatusByte (performed (flashStatusPlan P c) s) := by
  rw [flashStatus, readStatusFrame]
  refine (bind_ok (bgSpiTransfer_plan h)).trans ?_; rfl

theorem flashWaitIdle_plan {timeout : Nat} {awaited : Byte} {c : Scan}
    (hb : flashBusy P c.flashStatusByte = false)
    (h : Ready ([.clockRead] ++ flashStatusPlan P c) s) :
    flashWaitIdle P timeout awaited s
      = .ok () (performed ([.clockRead] ++ flashStatusPlan P c) s) := by
  have hr := h.resets
  replace h := (ready_cons h).2
  refine pollUntil_first hr ?_
  rw [pollFlashIdle]
  refine (bind_ok (flashStatus_plan h)).trans ?_
  simp [hb]

theorem flashWriteEnable_plan {c : ModifyScans} (hw : flashWel P c.enabled.flashStatusByte = true)
    (h : Ready (writeEnablePlan P c) s) :
    flashWriteEnable P s = .ok () (performed (writeEnablePlan P c) s) := by
  obtain ⟨h12, h3⟩ := ready_append h
  obtain ⟨h1, -⟩ := ready_append h12
  rw [performed_append] at h3
  rw [flashWriteEnable]
  refine (bind_ok (bgSpiTransfer_plan h1)).trans ?_
  rw [writeEnablePlan, performed_append, performed_append]
  refine pollUntil_first h3.resets ?_
  rw [pollFlashWel]
  refine (bind_ok (flashStatus_plan h3)).trans ?_
  simp [hw]

/-- R224: a modifying command. -/
theorem flashModify_plan {frame : List Byte} {timeout : Nat} {awaited : Byte} {c : ModifyScans}
    (hc : c.succeeds P) (h : Ready (writeEnablePlan P c ++ modifyPlan P frame c) s) :
    flashModify P frame timeout awaited s
      = .ok () (performed (writeEnablePlan P c ++ modifyPlan P frame c) s) := by
  obtain ⟨h1, h2⟩ := ready_append h
  rw [modifyPlan, List.append_assoc] at h2 ⊢
  obtain ⟨h2, h3⟩ := ready_append h2
  rw [flashModify, performed_append, performed_append]
  refine (bind_ok (flashWriteEnable_plan hc.1 h1)).trans ?_
  refine (bind_ok (bgSpiTransfer_plan h2)).trans ?_
  exact flashWaitIdle_plan hc.2 h3

theorem writePages_plan {bitstream : List Byte} {offset : Nat} {pages : List ModifyScans} {k : Nat}
    (hc : ∀ c ∈ pages, ModifyScans.succeeds P c)
    (h : Ready (pagesPlan P bitstream offset k pages) s) :
    writePages P bitstream offset k pages.length s
      = .ok () (performed (pagesPlan P bitstream offset k pages) s) := by
  induction pages generalizing k s with
  | nil => rfl
  | cons c pages ih =>
    rw [pagesPlan] at h ⊢
    obtain ⟨h1, h2⟩ := ready_append h
    rw [List.length_cons, writePages, performed_append]
    refine (bind_ok (flashModify_plan (frame := pageFrame P bitstream offset k)
      (hc c (by simp)) h1)).trans ?_
    exact ih (fun c h => hc c (by simp [h])) h2

theorem readPages_plan {offset length : Nat} {chunks : List Scan} {k : Nat}
    (h : Ready (chunksPlan P offset length k chunks) s) :
    readPages P offset length k chunks.length s
      = .ok (chunks.flatMap fun c => c.wireBytes.drop 4)
          (performed (chunksPlan P offset length k chunks) s) := by
  induction chunks generalizing k s with
  | nil => rfl
  | cons c chunks ih =>
    obtain ⟨h1, h2⟩ := ready_append h
    rw [List.length_cons, readPages]
    rw [show bgSpiTransfer (readPageFrame P (offset + k * Config.pageSize)
        (min Config.pageSize (length - k * Config.pageSize)))
      = bgSpiTransfer (chunkFrame P offset length k) from rfl]
    refine (bind_ok (bgSpiTransfer_plan h1)).trans ?_
    refine (bind_ok (ih h2)).trans ?_
    rw [chunksPlan, performed_append]
    rfl

/-! ### SPIB, debug half, and RAF -/

theorem spiTunneled_plan {data : List Byte} {c : ScanPair} (h : Ready (tunnelPlan P data c) s) :
    spiTunneled P data s = .ok c.data.wireBytes (performed (tunnelPlan P data c) s) := by
  obtain ⟨h1, h⟩ := ready_cons h
  obtain ⟨-, h⟩ := ready_cons h
  obtain ⟨h2, -⟩ := ready_cons h
  rw [spiTunneled]
  refine (bind_ok (shiftInstruction_act h1)).trans ?_
  rw [setBitbang]
  refine (bind_ok (update_run _ _)).trans ?_
  refine (bind_ok (withCleanup_ok (x := ofBits c.data.word)
    (shiftData_act (tdi := some (toWire data)) rfl (toWire_len _) h2) rfl)).trans rfl

theorem metaShift_plan {opc : Byte} {word : BitVector} {c : ScanPair}
    (h : Ready (metaPlan opc word c) s) :
    metaShift opc word s = .ok (ofBits c.data.word) (performed (metaPlan opc word c) s) := by
  obtain ⟨h1, h⟩ := ready_cons h
  obtain ⟨h2, -⟩ := ready_cons h
  rw [metaShift]
  refine (bind_ok (shiftInstruction_act h1)).trans ?_
  rw [shiftData_act (tdi := some word) rfl rfl h2]
  rfl

theorem probeWidth_plan {opc : Byte} {c : ScanPair} (h : Ready (probePlan opc c) s) :
    probeWidth opc s
      = .ok (leadingOnes (ofBits c.data.word)) (performed (probePlan opc c) s) := by
  obtain ⟨h1, h⟩ := ready_cons h
  obtain ⟨h2, -⟩ := ready_cons h
  rw [probeWidth]
  refine (bind_ok (shiftInstruction_act h1)).trans ?_
  refine (bind_ok (shiftData_act (tdi := none) rfl rfl h2)).trans ?_
  rfl

/-- R173, with the widths known. -/
theorem regTransaction_plan {address value : Nat} {isWrite : Bool} {c : RegisterScans}
    (hv : s.rafValid = true) (ha : address < 2 ^ (s.rafIw - 1)) (hd : value < 2 ^ s.rafDw)
    (h : Ready (registerPlan P s.rafIw s.rafDw address isWrite value c) s) :
    regTransaction P address isWrite value s
      = .ok (valueOfBits c.value.data.word)
          (performed (registerPlan P s.rafIw s.rafDw address isWrite value c) s) := by
  obtain ⟨h12, h3⟩ := ready_append h
  obtain ⟨h1, h2⟩ := ready_append h12
  rw [performed_append] at h3
  obtain ⟨h3, -⟩ := ready_cons h3
  have hw : detectWidths P s = .ok (s.rafIw, s.rafDw) s := by
    rw [detectWidths]
    refine (bind_ok (observe_run _ _)).trans ?_; simp [hv]
  have hr1 : refuseIf (decide (2 ^ ((s.rafIw, s.rafDw).1 - 1) ≤ address)) .badAddress s
      = .ok () s := by simp [Nat.not_le.mpr ha]
  have hr2 : refuseIf (decide (2 ^ (s.rafIw, s.rafDw).2 ≤ value)) .badValue s = .ok () s := by
    simp [Nat.not_le.mpr hd]
  have hword : fromInt (addressWord (s.rafIw, s.rafDw).1 isWrite address) (s.rafIw, s.rafDw).1
      = ⟨s.rafIw, (if isWrite then 2 ^ (s.rafIw - 1) else 0) + address⟩ := by
    cases isWrite <;> simp [addressWord, fromInt]
  rw [regTransaction]
  refine (bind_ok hw).trans ?_
  refine (bind_ok hr1).trans ?_
  refine (bind_ok hr2).trans ?_
  rw [hword]
  refine (bind_ok (metaShift_plan h1)).trans ?_
  refine (bind_ok (metaShift_plan (word := ⟨s.rafDw, value⟩) h2)).trans ?_
  refine (bind_ok (runTest_act h3)).trans ?_
  rw [registerPlan, performed_append, performed_append]
  rfl

end Sys2Proof.Machine
end

