-- ==== Sys2Proof/Laws/Commands.lean ====
section
/-! SUPPORT. From an operation's body to its command: what a command answers where its body returns
on a plan, or is refused before anything ran; and what the operand readers give on the frames that
carry operands. -/

namespace Sys2Proof.Machine

/-! ### `seq.*` is no input of a plan -/

/-- The state with other values of `seq.*`. -/
def withSeq (op : Option Byte) (phase : Nat) (opcode : Byte) (s : State) : State :=
  { s with seqOp := op, seqPhase := phase, seqOpcode := opcode }

theorem apply_withSeq (a : Act) (op : Option Byte) (phase : Nat) (opcode : Byte) (s : State) :
    ∃ phase' opcode', a.apply (withSeq op phase opcode s)
      = withSeq op phase' opcode' (a.apply s) := by
  cases a <;> exact ⟨_, _, rfl⟩

theorem performed_withSeq (plan : List Act) (op : Option Byte) (phase : Nat) (opcode : Byte)
    (s : State) : ∃ phase' opcode', performed plan (withSeq op phase opcode s)
      = withSeq op phase' opcode' (performed plan s) := by
  induction plan generalizing phase opcode s with
  | nil => exact ⟨phase, opcode, rfl⟩
  | cons a plan ih =>
    obtain ⟨p, o, h⟩ := apply_withSeq a op phase opcode s
    rw [performed_cons, h]
    exact ih p o _

theorem finishCommand_performed (data : List Byte) (plan : List Act) (op : Option Byte)
    (s : State) : finishCommand data (performed plan (beginCommand op s))
      = finishCommand data (performed plan s) := by
  obtain ⟨p, o, h⟩ := performed_withSeq plan op 0 0#8 s
  exact (congrArg (finishCommand data) h).trans rfl

theorem takeError_performed (e : ErrorRecord) (plan : List Act) (op : Option Byte)
    (s : State) : takeError e (performed plan (beginCommand op s))
      = takeError e (performed plan s) := by
  obtain ⟨p, o, h⟩ := performed_withSeq plan op 0 0#8 s
  exact (congrArg (takeError e) h).trans rfl

theorem ready_beginCommand {plan : List Act} {s : State} (op : Option Byte) (h : Ready plan s) :
    Ready plan (beginCommand op s) := h

/-! ### Commands -/

/-- R101: a host command whose body returns on a plan. -/
theorem ownedCommand_plan {op : Byte} {body : Engine (List Byte)} {s : State} {data : List Byte}
    {plan : List Act} (ho : s.tapOwner = true)
    (h : body (beginCommand (some op) s) = .ok data (performed plan (beginCommand (some op) s))) :
    ownedCommand op body s = .next (finishCommand data (performed plan s)) := by
  rw [ownedCommand_owner _ _ _ ho, h, commandOutcome, finishCommand_performed]

/-- R101: a row of the wire tables whose body returns on a plan. -/
theorem issuedCommand_plan {body : Engine (List Byte)} {s : State} {data : List Byte}
    {plan : List Act} (ho : s.tapOwner = true)
    (h : body (beginCommand none s) = .ok data (performed plan (beginCommand none s))) :
    issuedCommand body s = .next (finishCommand data (performed plan s)) := by
  rw [issuedCommand_owner _ _ ho, h, commandOutcome, finishCommand_performed]

/-- R264, R267: a command refused before anything ran. -/
theorem takeError_refusal (op : Option Byte) (d : RefusedDetail) (s : State) :
    takeError (errorRecord (.refused d) (beginCommand op s)) (beginCommand op s)
      = takeError (refusal op d) s := rfl

theorem ownedCommand_refused {op : Byte} {body : Engine (List Byte)} {s : State}
    {d : RefusedDetail} (ho : s.tapOwner = true)
    (h : body (beginCommand (some op) s) = .error (.raised (.refused d)
      (errorRecord (.refused d) (beginCommand (some op) s))) (beginCommand (some op) s)) :
    ownedCommand op body s = .next (takeError (refusal (some op) d) s) := by
  rw [ownedCommand_owner _ _ _ ho, h, commandOutcome, takeError_refusal]

/-- R265: a host command whose body raises after a plan. -/
theorem ownedCommand_raised {op : Byte} {body : Engine (List Byte)} {s : State} {r : Raise}
    {record : ErrorRecord} {plan : List Act} (ho : s.tapOwner = true)
    (h : body (beginCommand (some op) s)
      = .error (.raised r record) (performed plan (beginCommand (some op) s))) :
    ownedCommand op body s = .next (takeError record (performed plan s)) := by
  rw [ownedCommand_owner _ _ _ ho, h, commandOutcome, takeError_performed]

/-! ### Operand readers -/

theorem operandIf_true {α : Type} {legal : Bool} {x : α} (h : legal = true) :
    operandIf legal x = .ok x := by simp [operandIf, h]

theorem operandIf_false {α : Type} {legal : Bool} {x : α} (h : legal = false) :
    operandIf legal x = .error .badOperand := by simp [operandIf, h]

/-- R84: the 16 codes. -/
theorem stateOfCode_stateCode (t : TapState) : stateOfCode (stateCode t) = t := by
  cases t <;> rfl

theorem stateOfCode_flags (t : TapState) (high : Byte) (h : high &&& 0x0F#8 = 0#8) :
    stateOfCode ((high ||| (stateCode t).zeroExtend 8).extractLsb' 0 4) = t := by
  have : (high ||| (stateCode t).zeroExtend 8).extractLsb' 0 4 = stateCode t := by
    revert high
    cases t <;> decide
  rw [this, stateOfCode_stateCode]

theorem flagsWithin_state (t : TapState) (high mask : Byte) (h : high &&& ~~~mask = 0#8)
    (hm : ~~~mask &&& 0x0F#8 = 0#8) (f : HostFields)
    (hf : f.flags = high ||| (stateCode t).zeroExtend 8) : flagsWithin f mask = true := by
  have : (high ||| (stateCode t).zeroExtend 8) &&& ~~~mask = 0#8 := by
    have h2 : (stateCode t).zeroExtend 8 &&& ~~~mask = 0#8 := by
      have h3 : (stateCode t).zeroExtend 8 = (stateCode t).zeroExtend 8 &&& 0x0F#8 := by
        cases t <;> rfl
      rw [h3, BitVec.and_assoc, BitVec.and_comm 0x0F#8, hm, BitVec.and_zero]
    rw [BitVec.and_or_distrib_right, h, h2]; rfl
  simp [flagsWithin, hf, this]

/-- R85: an integer packed into its bytes. -/
theorem packedWell_beBytes {length value : Nat} (h : value < 2 ^ length) :
    packedWell length (beBytes ((length + 7) / 8) value) = true
      ∧ fromBe (beBytes ((length + 7) / 8) value) = value := by
  have h1 : fromBe (beBytes ((length + 7) / 8) value) = value := by
    rw [fromBe_beBytes, Nat.mod_eq_of_lt]
    calc value < 2 ^ length := h
      _ ≤ 2 ^ (8 * ((length + 7) / 8)) := Nat.pow_le_pow_right (by norm_num) (by omega)
      _ = 256 ^ ((length + 7) / 8) := by rw [Nat.pow_mul]
  exact ⟨by simp [packedWell, packedLength, h1, h], h1⟩

end Sys2Proof.Machine
end

