-- ==== Sys2Proof/Laws/Datapath.lean ====
section
/-! SUPPORT. SHDP as lists of bits: what each function of Machine/Datapath.lean does to the bits of
a vector, bit 0 first, and to the bytes they are. -/

namespace Sys2Proof.Machine

theorem bitVector_ext {v w : BitVector} (hl : v.len = w.len) (hv : v.val = w.val) : v = w := by
  cases v; cases w; simp_all

/-! ### Values and bits -/

theorem valueOfBits_cons (b : Bool) (l : List Bool) :
    valueOfBits (b :: l) = b.toNat + 2 * valueOfBits l := rfl

theorem valueOfBits_lt (l : List Bool) : valueOfBits l < 2 ^ l.length := by
  induction l with
  | nil => simp [valueOfBits]
  | cons b l ih =>
    rw [valueOfBits_cons, List.length_cons, Nat.pow_succ]; cases b <;> simp <;> omega

theorem valueOfBits_append (a b : List Bool) :
    valueOfBits (a ++ b) = valueOfBits a + 2 ^ a.length * valueOfBits b := by
  induction a with
  | nil => simp [valueOfBits]
  | cons x a ih =>
    rw [List.cons_append, valueOfBits_cons, valueOfBits_cons, ih, List.length_cons, Nat.pow_succ]
    ring

theorem testBit_valueOfBits (l : List Bool) (i : Nat) :
    (valueOfBits l).testBit i = l.getD i false := by
  induction l generalizing i with
  | nil => simp [valueOfBits]
  | cons b l ih =>
    rw [valueOfBits_cons]
    cases i with
    | zero => cases b <;> simp [Nat.testBit_zero]
    | succ i =>
      have : (b.toNat + 2 * valueOfBits l) / 2 = valueOfBits l := by cases b <;> simp <;> omega
      rw [Nat.testBit_succ, this, ih]; simp

@[simp] theorem bitsOf_ofBits (l : List Bool) : bitsOf (ofBits l) = l := by
  apply List.ext_getElem
  · simp [ofBits]
  · intro i h1 h2
    simp [bitsOf, bitAt, ofBits, testBit_valueOfBits, h2]

theorem ofBits_bitsOf {v : BitVector} (h : fits v) : ofBits (bitsOf v) = v := by
  apply bitVector_ext
  · simp [ofBits]
  · change valueOfBits (bitsOf v) = v.val
    apply Nat.eq_of_testBit_eq
    intro i
    rw [testBit_valueOfBits]
    by_cases hi : i < v.len
    · simp [bitsOf, bitAt, hi]
    · have : v.val.testBit i = false := Nat.testBit_lt_two_pow
        (lt_of_lt_of_le h (Nat.pow_le_pow_right (by norm_num) (by omega)))
      simp [bitsOf, hi, this]

theorem fits_ofBits (l : List Bool) : fits (ofBits l) := valueOfBits_lt l

theorem bitAt_getD (v : BitVector) (i : Nat) (h : i < v.len) :
    bitAt v i = (bitsOf v).getD i false := by simp [bitsOf, h]

/-! ### Bytes -/

/-- The bits of a byte, bit 0 first. -/
def byteBits (b : Byte) : List Bool := (List.range 8).map b.getLsbD

theorem valueOfBits_byteBits (b : Byte) : valueOfBits (byteBits b) = b.toNat := by
  revert b; decide +kernel

theorem byteBits_reverse (b : Byte) : (byteBits b).reverse = byteBits (bitrevByte b) := by
  revert b; decide +kernel

theorem bitrevByte_getLsbD (b : Byte) (k : Nat) (h : k < 8) :
    (bitrevByte b).getLsbD k = b.getLsbD (7 - k) := by
  interval_cases k <;> (revert b; decide +kernel)

/-- Bit `k` of byte `j` among the bits of bytes. -/
theorem getD_flatMap_byteBits (l : List Byte) (j k : Nat) (hk : k < 8) (h : j < l.length) :
    (l.flatMap byteBits).getD (8 * j + k) false = l[j].getLsbD k := by
  induction l generalizing j with
  | nil => simp at h
  | cons b l ih =>
    have hlen : (byteBits b).length = 8 := by simp [byteBits]
    rw [List.flatMap_cons]
    cases j with
    | zero =>
      rw [List.getD_append _ _ _ _ (by omega)]
      simp [byteBits, hk]
    | succ j =>
      rw [List.getD_append_right _ _ _ _ (by omega), hlen,
        show 8 * (j + 1) + k - 8 = 8 * j + k by omega, ih j (by simpa using h)]
      simp

theorem fits_fromBytes (b : List Byte) (order : ByteOrder) : fits (fromBytes b order) := by
  cases order
  · change fromBe b < 2 ^ (8 * b.length)
    rw [Nat.pow_mul]; exact fromBe_lt b
  · change fromBe b.reverse < 2 ^ (8 * b.length)
    rw [Nat.pow_mul]; simpa using fromBe_lt b.reverse

/-- R120: the last byte of a big-endian string holds the lowest bits. -/
theorem bitsOf_fromBytes (b : List Byte) :
    bitsOf (fromBytes b .big) = b.reverse.flatMap byteBits := by
  have : fromBytes b .big = ofBits (b.reverse.flatMap byteBits) := by
    induction b with
    | nil => rfl
    | cons x b ih =>
      have h1 := congrArg BitVector.len ih
      have h2 := congrArg BitVector.val ih
      simp only [fromBytes, ofBits] at h1 h2
      apply bitVector_ext
      · simp [fromBytes, ofBits, byteBits] at h1 ⊢; omega
      · simp only [fromBytes, ofBits]
        rw [List.reverse_cons, List.flatMap_append, valueOfBits_append, ← h1, ← h2, fromBe_cons]
        simp only [List.flatMap_cons, List.flatMap_nil, List.append_nil, valueOfBits_byteBits,
          Nat.pow_mul]
        ring
  rw [this, bitsOf_ofBits]

/-- R126 on bytes: the bytes reversed, and each byte's bits. -/
theorem bitrevAll_fromBytes (b : List Byte) :
    bitrevAll (fromBytes b .big) = fromBytes (b.reverse.map bitrevByte) .big := by
  have flip : ∀ l : List Byte, (l.flatMap byteBits).reverse
      = l.reverse.flatMap fun a => (byteBits a).reverse := by
    intro l
    induction l with
    | nil => rfl
    | cons a l ih => simp [ih]
  have h : bitsOf (fromBytes (b.reverse.map bitrevByte) .big)
      = (bitsOf (fromBytes b .big)).reverse := by
    rw [bitsOf_fromBytes, bitsOf_fromBytes, flip]
    simp only [List.reverse_reverse, ← List.map_reverse, List.flatMap_map, byteBits_reverse]
  rw [bitrevAll, ← h, ofBits_bitsOf (fits_fromBytes _ _)]

theorem bitsOf_toWire (b : List Byte) : bitsOf (toWire b) = (b.map bitrevByte).flatMap byteBits := by
  rw [toWire, bitrevAll_fromBytes, bitsOf_fromBytes]; simp [← List.map_reverse]

/-! ### Counting -/

theorem firstZero_some (l : List Bool) (i : Nat) : firstZero l = some i ↔
    i < l.length ∧ l.getD i false = false ∧ ∀ j < i, l.getD j false = true := by
  induction l generalizing i with
  | nil => simp [firstZero]
  | cons b l ih =>
    cases b with
    | false =>
      cases i with
      | zero => simp [firstZero]
      | succ i => simp [firstZero]; intro _ _; exact ⟨0, by omega, by simp⟩
    | true =>
      cases i with
      | zero => simp [firstZero]
      | succ i =>
        simp only [firstZero, Option.map_eq_some_iff]
        constructor
        · rintro ⟨a, h, h2⟩
          obtain rfl : a = i := by omega
          obtain ⟨h1, h2, h3⟩ := (ih a).mp h
          refine ⟨by simpa using h1, by simpa using h2, fun j hj => ?_⟩
          cases j with
          | zero => rfl
          | succ j => simpa using h3 j (by omega)
        · rintro ⟨h1, h2, h3⟩
          exact ⟨i, (ih i).mpr ⟨by simpa using h1, by simpa using h2,
            fun j hj => by simpa using h3 (j + 1) (by omega)⟩, rfl⟩

theorem firstZero_none (l : List Bool) :
    firstZero l = none ↔ ∀ i < l.length, l.getD i false = true := by
  induction l with
  | nil => simp [firstZero]
  | cons b l ih =>
    cases b with
    | false => simp [firstZero]; exact ⟨0, by simp, by simp⟩
    | true =>
      simp only [firstZero, Option.map_eq_none_iff, ih]
      constructor
      · intro h i hi
        cases i with
        | zero => rfl
        | succ i => simpa using h i (by simpa using hi)
      · intro h i hi; simpa using h (i + 1) (by simpa using hi)

end Sys2Proof.Machine
end

