-- ==== Sys2Proof/Laws/Operands.lean ====
section
/-! SUPPORT. What each operand reader of Machine/Operands.lean gives on the frames that carry its
operands, spec/30_encoding.md R83, R84, R85. -/

namespace Sys2Proof.Machine

theorem noOperands_noFields : noOperands noFields = .ok () := rfl

theorem moveToStateOperands_frame (t : TapState) :
    moveToStateOperands ⟨0#8, (stateCode t).zeroExtend 32, 0#32, []⟩ = .ok t := by
  cases t <;> rfl

theorem shiftInstructionOperands_frame (t : TapState) {length opcode : Nat}
    (hl : length < 2 ^ 32) (ho : opcode < 2 ^ length) :
    shiftInstructionOperands ⟨(stateCode t).zeroExtend 8, BitVec.ofNat 32 length, 0#32,
      beBytes ((length + 7) / 8) opcode⟩ = .ok ⟨t, length, opcode⟩ := by
  have h1 := packedWell_beBytes ho
  have h2 : (BitVec.ofNat 32 length).toNat = length := by simp; omega
  unfold shiftInstructionOperands
  rw [operandIf_true]
  · have := stateOfCode_flags t 0#8 rfl
    simp only [BitVec.zero_or] at this
    simp [h1.2, h2, flagState, this]
  · simp only [h2, h1.1]
    rw [flagsWithin_state t 0#8 0x0F#8 rfl rfl _ (by simp)]
    rfl

/-- The flag bits of a `SHIFT_DATA` frame. -/
def shiftDataFlags (wire present : Bool) (t : TapState) : Byte :=
  ((if wire then 0x20#8 else 0#8) ||| (if present then 0x10#8 else 0#8))
    ||| (stateCode t).zeroExtend 8

theorem shiftDataOperands_frame (t : TapState) (present wire : Bool) {length : Nat}
    {payload : List Byte} (hl : length < 2 ^ 32)
    (hp : dataPayloadWell (if wire then .wire else .native) present length payload = true) :
    shiftDataOperands ⟨shiftDataFlags wire present t, BitVec.ofNat 32 length, 0#32, payload⟩
      = .ok ⟨t, length, if wire then .wire else .native, if present then some payload else none⟩ := by
  have h2 : (BitVec.ofNat 32 length).toNat = length := by simp; omega
  have h4 : (shiftDataFlags wire present t).getLsbD 4 = present := by
    cases wire <;> cases present <;> cases t <;> rfl
  have h5 : (shiftDataFlags wire present t).getLsbD 5 = wire := by
    cases wire <;> cases present <;> cases t <;> rfl
  unfold shiftDataOperands
  simp only [h4, h5, h2]
  rw [operandIf_true]
  · simp only [flagState, shiftDataFlags]
    rw [stateOfCode_flags t _ (by cases wire <;> cases present <;> rfl)]
  · simp only [hp]
    rw [flagsWithin_state t
      ((if wire then 0x20#8 else 0#8) ||| (if present then 0x10#8 else 0#8)) 0x3F#8
      (by cases wire <;> cases present <;> rfl) rfl _ rfl]
    rfl

theorem runTestOperands_frame (t : TapState) (cycles : Word32) :
    runTestOperands ⟨(stateCode t).zeroExtend 8, cycles, 0#32, []⟩ = .ok (t, cycles.toNat) := by
  unfold runTestOperands
  rw [operandIf_true]
  · have := stateOfCode_flags t 0#8 rfl
    simp only [BitVec.zero_or] at this
    simp [flagState, this]
  · rw [flagsWithin_state t 0#8 0x0F#8 rfl rfl _ (by simp)]
    rfl

theorem forceBitbangOperands_frame (enable : Bool) :
    forceBitbangOperands ⟨BitVec.ofNat 8 enable.toNat, 0#32, 0#32, []⟩ = .ok enable := by
  cases enable <;> rfl

theorem scalarOperand_frame (a : Word32) : scalarOperand ⟨0#8, a, 0#32, []⟩ = .ok a.toNat := rfl

theorem regTransactionOperands_frame (isWrite : Bool) (a : Word32) (payload : List Byte) :
    regTransactionOperands ⟨BitVec.ofNat 8 isWrite.toNat, a, 0#32, payload⟩
      = .ok (a.toNat, isWrite, payload) := by
  cases isWrite <;> simp [regTransactionOperands, operandIf, flagsWithin]

theorem regWriteOperands_frame (a : Word32) (payload : List Byte) :
    regWriteOperands ⟨0#8, a, 0#32, payload⟩ = .ok (a.toNat, payload) := rfl

theorem configureOperands_frame (bitstream : List Byte) :
    configureOperands ⟨0#8, 0#32, 0#32, bitstream⟩ = .ok bitstream := rfl

theorem flashOperands_frame (unprotect eraseFirst : Bool) (a : Word32) (bitstream : List Byte) :
    flashOperands ⟨BitVec.ofNat 8 (unprotect.toNat + 2 * eraseFirst.toNat), a, 0#32, bitstream⟩
      = .ok ⟨unprotect, eraseFirst, a.toNat, bitstream⟩ := by
  cases unprotect <;> cases eraseFirst <;> simp [flashOperands, operandIf, flagsWithin]

theorem readFlashOperands_frame (a b : Word32) :
    readFlashOperands ⟨0#8, a, b, []⟩ = .ok (a.toNat, b.toNat) := rfl

theorem spiTransferOperands_frame (invertCs : Bool) (data : List Byte) :
    spiTransferOperands ⟨BitVec.ofNat 8 invertCs.toNat, 0#32, 0#32, data⟩
      = .ok (invertCs, data) := by
  cases invertCs <;> simp [spiTransferOperands, operandIf, flagsWithin]

theorem spiRegTransactionOperands_frame (isWrite : Bool) (a value : Word32) :
    spiRegTransactionOperands ⟨BitVec.ofNat 8 isWrite.toNat, a, value, []⟩
      = .ok (a.toNat, isWrite, value) := by
  cases isWrite <;> simp [spiRegTransactionOperands, operandIf, flagsWithin]

theorem spiRegWriteOperands_frame (a value : Word32) :
    spiRegWriteOperands ⟨0#8, a, value, []⟩ = .ok (a.toNat, value) := rfl

/-- R85, R173: a value in `raf.dw / 8` bytes. -/
theorem payloadValue_beBytes {dw value : Nat} (emptyIsZero : Bool) (h : dw % 8 = 0)
    (hv : value < 2 ^ dw) : payloadValue dw emptyIsZero (beBytes (dw / 8) value) = .ok value := by
  have : fromBe (beBytes (dw / 8) value) = value := by
    rw [fromBe_beBytes, Nat.mod_eq_of_lt]
    calc value < 2 ^ dw := hv
      _ = 2 ^ (8 * (dw / 8)) := by congr 1; omega
      _ = 256 ^ (dw / 8) := by rw [Nat.pow_mul]
  rw [payloadValue, operandIf_true, this]
  simp

theorem payloadValue_nil (dw : Nat) : payloadValue dw true [] = .ok 0 := by
  rw [payloadValue, operandIf_true] <;> simp

end Sys2Proof.Machine
end

