-- ==== Sys2Proof/Laws/Exchanges.lean ====
section
/-! SUPPORT. RAF's and the debug SPI's shared operations on a target that answers, and a walk on a
link that faults. -/

namespace Sys2Proof.Machine

variable {P : Params} {s : State}

/-! ### A link fault, R52, R262 -/

/-- A walk along TMS = 1 that the link answers with bits and then with a fault. -/
theorem walk_fault {tdo : List Bool} {n : Nat} {rest : List LinkAnswer} {fault : LinkAnswer}
    {r : Raise} (hr : s.resets = []) (hl : tdo.length < n) (hs : s.link = tdo.map .bit ++ fault :: rest)
    (hf : ∀ s', s'.resets = [] → linkAnswer s' = fault →
      tick true false s' = .error (.raised r (errorRecord r s')) (nextLink s')) :
    walk (List.replicate n true) s = .error (.raised r (errorRecord r s))
      { s with
        tapState := walkState s.tapState (List.replicate tdo.length true)
        trace := (tdo.map fun b => Event.tick true false b s.tapBitbang).reverse ++ s.trace
        link := rest
        linkCount := s.linkCount + tdo.length + 1 } := by
  induction tdo generalizing n s with
  | nil =>
    cases n with
    | zero => simp at hl
    | succ n =>
      rw [List.replicate_succ, walk]
      refine (bind_error (hf s hr (by simp [linkAnswer, hs]))).trans ?_
      simp [nextLink, hs, walkState]
  | cons b tdo ih =>
    cases n with
    | zero => simp at hl
    | succ n =>
      rw [List.replicate_succ, walk]
      refine (bind_ok (tick_bit (tdo := b) hr (by simp [linkAnswer, hs]))).trans ?_
      refine (ih (n := n) (s := afterTick true false b s) hr (by simpa using hl)
        (by simp [afterTick, emit, nextLink, hs])).trans ?_
      simp [afterTick, emit, nextLink, walkState, List.replicate_succ, errorRecord]
      omega

/-- R290 (3): a walk along TMS = 1 that reset stops after the bits that the link answers. -/
theorem walk_reset {tdo : List Bool} {n : Nat} {rest : List LinkAnswer} {later : List Nat}
    (hl : tdo.length < n) (hr : s.resets = tdo.length :: later)
    (hs : s.link = tdo.map .bit ++ rest) :
    walk (List.replicate n true) s = .error .reset
      { s with
        tapState := walkState s.tapState (List.replicate tdo.length true)
        trace := (tdo.map fun b => Event.tick true false b s.tapBitbang).reverse ++ s.trace
        link := rest
        linkCount := s.linkCount + tdo.length
        resets := 0 :: later } := by
  obtain ⟨n, rfl⟩ : ∃ m, n = m + 1 := ⟨n - 1, by omega⟩
  rw [List.replicate_succ, walk]
  induction tdo generalizing n s with
  | nil =>
    refine (bind_error (show tick true false s = _ from primitive_reset _ hr)).trans ?_
    simp at hs hr
    simp [walkState, ← hs, ← hr]
  | cons b tdo ih =>
    obtain ⟨n, rfl⟩ : ∃ m, n = m + 1 := ⟨n - 1, by simp at hl; omega⟩
    have e : tick true false s = .ok b (afterTick true false b (countdown s)) := by
      have hd : resetDue s = false := by simp [resetDue, hr]
      have ha : linkAnswer (countdown s) = .bit b := by simp [linkAnswer, countdown, hs]
      rw [tick, primitive_run, hd, if_neg Bool.false_ne_true, linkExchange_run, ha]
    refine (bind_ok e).trans ?_
    rw [List.replicate_succ, walk]
    refine (ih (s := afterTick true false b (countdown s))
      (by simp [afterTick, emit, nextLink, countdown, hr, stepsLeft])
      (by simp [afterTick, emit, nextLink, countdown, hs]) n (by simpa using hl)).trans ?_
    simp [afterTick, emit, nextLink, countdown, walkState, List.replicate_succ]
    omega

/-! ### RAF -/

theorem detectWidths_cached (h : s.rafValid = true) :
    detectWidths P s = .ok (s.rafIw, s.rafDw) s := by
  rw [detectWidths]
  refine (bind_ok (observe_run _ _)).trans ?_
  simp [h]

theorem requireWidth_usable {c : ScanPair} {w : Nat} (h : usableWidth c w) (s : State) :
    requireWidth (leadingOnes (ofBits c.data.word)) s = .ok w s := by
  obtain ⟨h1, h2, h3⟩ := h
  have : w ≠ 0 := by omega
  rw [h1]; simp [requireWidth, h3, this]

theorem detectWidths_plan {reset : List Bool} {data address : ScanPair} {iw dw : Nat}
    (hv : s.rafValid = false) (hd : usableWidth data dw) (ha : usableWidth address iw)
    (hr : Ready (detectPlan P reset data address iw dw) s) :
    detectWidths P s = .ok (iw, dw) (performed (detectPlan P reset data address iw dw) s) := by
  rw [detectPlan, List.cons_append, List.cons_append] at hr ⊢
  obtain ⟨h1, hr⟩ := ready_cons hr
  obtain ⟨h23, -⟩ := ready_append hr
  obtain ⟨h2, h3⟩ := ready_append h23
  rw [detectWidths]
  refine (bind_ok (observe_run _ _)).trans ?_
  simp only [hv, Bool.false_eq_true, if_false]
  rw [measureWidths]
  refine (bind_ok (tapReset_act h1)).trans ?_
  refine (bind_ok (probeWidth_plan h2)).trans ?_
  refine (bind_ok (requireWidth_usable hd _)).trans ?_
  refine (bind_ok (probeWidth_plan h3)).trans ?_
  refine (bind_ok (requireWidth_usable ha _)).trans ?_
  refine (bind_ok (update_run _ _)).trans ?_
  rw [performed_cons, performed_append, performed_append]
  rfl

theorem regExchange_plan {address value : Nat} {isWrite emptyIsZero : Bool} {payload : List Byte}
    {c : RegisterScans} (hv : s.rafValid = true) (ha : address < 2 ^ (s.rafIw - 1))
    (hd : value < 2 ^ s.rafDw) (hp : payloadValue s.rafDw emptyIsZero payload = .ok value)
    (hr : Ready (registerPlan P s.rafIw s.rafDw address isWrite value c) s) :
    regExchange P address isWrite emptyIsZero payload s
      = .ok (s.rafDw, valueOfBits c.value.data.word)
          (performed (registerPlan P s.rafIw s.rafDw address isWrite value c) s) := by
  rw [regExchange]
  refine (bind_ok (detectWidths_cached hv)).trans ?_
  rw [hp]
  refine (bind_ok (takeOperands_ok _ _)).trans ?_
  exact (bind_ok (regTransaction_plan hv ha hd hr)).trans rfl

/-! ### SPIB, debug half -/

theorem spiTransfer_ready {data received : List Byte} {c : ScanPair} {invertCs : Bool}
    (hd : data ≠ []) (h : SpiReady P data c received s) :
    spiTransfer P data invertCs s = .ok received (spiDone P invertCs data c received s) := by
  have e : refuseIf data.isEmpty .badLength s = .ok () s := by
    cases data with
    | nil => exact absurd rfl hd
    | cons => rfl
  unfold spiTransfer
  refine (bind_ok e).trans ?_
  unfold SpiReady at h
  unfold spiDone
  cases hv : P.spiVariant
  · simp only [hv] at h ⊢
    rw [spiTunneled_plan h.1, h.2]
  · simp only [hv] at h ⊢
    obtain ⟨hr, ⟨rest, h1⟩, h2⟩ := h
    rw [spiDirect, primitive_undisturbed _ hr]
    simp only [spiExchange, spiAnswer, ← h1, List.cons_append, List.headD_cons, h2, if_true]
    simp [emit, nextSpi, ← h1]

/-- R95: the decided widths of the debug register interface. -/
def DecidedSpiWidths (P : Params) : Prop := P.spiRegAddrBits = 8 ∧ P.spiRegValueBits = 32

theorem spiRegFrame_decided (hw : DecidedSpiWidths P) (address : Nat) (isWrite : Bool)
    (value : Word32) : spiRegFrame P address isWrite value
      = BitVec.ofNat 8 ((if isWrite then 128 else 0) + address) :: be4 value := by
  obtain ⟨h1, h2⟩ := hw
  cases isWrite <;>
    simp [spiRegFrame, spiAddressWord, h1, h2, packedLength, be4_eq, show beBytes 1 = fun x =>
      [BitVec.ofNat 8 (x / 256 ^ 0)] from rfl]

theorem spiRegTransaction_ready {address : Nat} {isWrite : Bool} {value : Word32}
    {received : List Byte} {c : ScanPair} (hw : DecidedSpiWidths P) (ha : address < 128)
    (h : SpiReady P (BitVec.ofNat 8 ((if isWrite then 128 else 0) + address) :: be4 value) c
      received s) :
    spiRegTransaction P address isWrite value s
      = .ok ((received.drop 1).take 4) (spiDone P false
          (BitVec.ofNat 8 ((if isWrite then 128 else 0) + address) :: be4 value) c received s) := by
  have e1 : decide (2 ^ (P.spiRegAddrBits - 1) ≤ address) = false := by simp [hw.1]; omega
  have e2 : decide (2 ^ P.spiRegValueBits ≤ value.toNat) = false := by simp [hw.2]; omega
  have e3 : spiRegResult P received = (received.drop 1).take 4 := by
    simp [spiRegResult, hw.1, hw.2, packedLength]
  rw [spiRegTransaction, e1, e2]
  refine (bind_ok (refuseIf_false _ _)).trans ((bind_ok (refuseIf_false _ _)).trans ?_)
  rw [spiRegFrame_decided hw, ← e3]
  exact (bind_ok (spiTransfer_ready (by simp) h)).trans rfl

theorem spiRegTransaction_badAddress {address : Nat} {isWrite : Bool} {value : Word32}
    (hw : DecidedSpiWidths P) (ha : 128 ≤ address) :
    spiRegTransaction P address isWrite value s
      = .error (.raised (.refused .badAddress) (errorRecord (.refused .badAddress) s)) s := by
  have e : decide (2 ^ (P.spiRegAddrBits - 1) ≤ address) = true := by simpa [hw.1]
  rw [spiRegTransaction, e]
  exact bind_error (refuseIf_true _ _)

theorem finishCommand_spiDone {invertCs : Bool} {data received : List Byte} {c : ScanPair}
    {op : Option Byte} {result : List Byte} :
    finishCommand result (spiDone P invertCs data c received (beginCommand op s))
      = finishCommand result (spiDone P invertCs data c received s) := by
  unfold spiDone
  cases P.spiVariant
  · exact finishCommand_performed _ _ _ _
  · rfl

end Sys2Proof.Machine
end

