-- ==== Sys2Proof/Laws/Interruptions.lean ====
section
/-! SUPPORT. Every operation of the engine meets the reset input as Laws/Abandon.lean says
(spec/70_reset_and_hazards.md R290): one lemma per operation. -/

namespace Sys2Proof.Machine

theorem Atomic.update {change : State → State}
    (h : ∀ s resets, change (withResets resets s) = withResets resets (change s))
    (ht : ∀ s, ∃ e, (change s).trace = [e] ++ s.trace) : Atomic 1 (Machine.update change) := by
  refine ⟨fun s resets => ?_, fun s t h => ?_, fun s => ?_⟩
  · simp [mapEnd, h]
  · simp at h
  · obtain ⟨e, he⟩ := ht s
    exact ⟨[e], he, by simp⟩

theorem tick_interruptible (a b) : Interruptible (tick a b) := by
  refine Interruptible.primitive ⟨fun s resets => ?_, fun s t h => ?_, fun s => ?_⟩
  · rw [linkExchange_run, linkExchange_run]
    have : linkAnswer (withResets resets s) = linkAnswer s := rfl
    rw [this]
    cases linkAnswer s <;> rfl
  · rw [linkExchange_run] at h
    cases hl : linkAnswer s <;> rw [hl] at h <;> cases h
  · rw [linkExchange_run]
    cases linkAnswer s
    · exact ⟨[_], rfl, Nat.le_refl _⟩
    all_goals exact ⟨[], rfl, Nat.zero_le _⟩

theorem walk_interruptible (l) : Interruptible (walk l) := by
  induction l with
  | nil => exact .pure _
  | cons t l ih => exact (tick_interruptible _ _).bind fun _ => ih

theorem moveToState_interruptible (t) : Interruptible (moveToState t) :=
  (Interruptible.observe (by intros; rfl)).bind fun _ => walk_interruptible _

theorem tapReset_interruptible : Interruptible tapReset :=
  (walk_interruptible _).bind fun _ => .update (by intros; rfl) (by intros; rfl)

theorem shiftBits_interruptible (l b) : Interruptible (shiftBits l b) := by
  induction b with
  | nil => exact .pure _
  | cons t b ih => exact (tick_interruptible _ _).bind fun _ =>
    (Interruptible.update (by intros; rfl) (by intros; rfl)).bind fun _ => ih

theorem shiftReg_interruptible (a v c) : Interruptible (shiftReg a v c) :=
  (moveToState_interruptible _).bind fun _ =>
  (Interruptible.update (by intros; rfl) (by intros; rfl)).bind fun _ =>
  (shiftBits_interruptible _ _).bind fun _ => (moveToState_interruptible _).bind fun _ =>
  .observe (by intros; rfl)

theorem shiftInstruction_interruptible (a b c) : Interruptible (shiftInstruction a b c) :=
  (Interruptible.refuseIf _ _).bind fun _ => (shiftReg_interruptible _ _ _).bind fun _ =>
  (Interruptible.update (by intros; rfl) (by intros; rfl)).bind fun _ => .pure _

theorem shiftData_interruptible (a b c) : Interruptible (shiftData a b c) :=
  (Interruptible.refuseIf _ _).bind fun _ => (shiftReg_interruptible _ _ _).bind fun _ =>
  (Interruptible.update (by intros; rfl) (by intros; rfl)).bind fun _ => .pure _

theorem shiftDataOrdered_interruptible (o) : Interruptible (shiftDataOrdered o) :=
  (Interruptible.refuseIf _ _).bind fun _ => (Interruptible.refuseIf _ _).bind fun _ =>
  (shiftData_interruptible _ _ _).bind fun _ => .pure _

theorem runTest_interruptible (a b) : Interruptible (runTest a b) :=
  (Interruptible.refuseIf _ _).bind fun _ => (moveToState_interruptible _).bind fun _ =>
  walk_interruptible _

theorem enumerateLoop_interruptible (P n d) : Interruptible (enumerateLoop P n d) := by
  induction n generalizing d with
  | zero => exact .pure _
  | succ n ih => exact (shiftData_interruptible _ _ _).bind fun _ => .ite (.pure _) (ih _)

theorem enumerate_interruptible (P) : Interruptible (enumerate P) :=
  tapReset_interruptible.bind fun _ => (shiftInstruction_interruptible _ _ _).bind fun _ =>
  (enumerateLoop_interruptible _ _ _).bind fun _ => (moveToState_interruptible _).bind fun _ =>
  .pure _

theorem probeWidth_interruptible (o) : Interruptible (probeWidth o) :=
  (shiftInstruction_interruptible _ _ _).bind fun _ =>
  (shiftData_interruptible _ _ _).bind fun _ => .pure _

theorem requireWidth_interruptible (w) : Interruptible (requireWidth w) := by
  cases w
  · exact .raise _
  · exact .ite (.raise _) (.pure _)

theorem detectWidths_interruptible (P) : Interruptible (detectWidths P) :=
  (Interruptible.observe (by intros; rfl)).bind fun _ =>
  .ite (.observe (by intros; rfl)) (tapReset_interruptible.bind fun _ =>
  (probeWidth_interruptible _).bind fun _ => (requireWidth_interruptible _).bind fun _ =>
  (probeWidth_interruptible _).bind fun _ => (requireWidth_interruptible _).bind fun _ =>
  (Interruptible.update (by intros; rfl) (by intros; rfl)).bind fun _ => .pure _)

theorem metaShift_interruptible (o w) : Interruptible (metaShift o w) :=
  (shiftInstruction_interruptible _ _ _).bind fun _ => shiftData_interruptible _ _ _

theorem regTransaction_interruptible (P a b c) : Interruptible (regTransaction P a b c) :=
  (detectWidths_interruptible _).bind fun _ => (Interruptible.refuseIf _ _).bind fun _ =>
  (Interruptible.refuseIf _ _).bind fun _ => (metaShift_interruptible _ _).bind fun _ =>
  (metaShift_interruptible _ _).bind fun _ => (runTest_interruptible _ _).bind fun _ => .pure _

theorem regExchange_interruptible (P a b c d) : Interruptible (regExchange P a b c d) :=
  (detectWidths_interruptible _).bind fun _ => (Interruptible.takeOperands _).bind fun _ =>
  (regTransaction_interruptible _ _ _ _).bind fun _ => .pure _

theorem setOpcode_interruptible (b) : Interruptible (setOpcode b) :=
  .update (by intros; rfl) (by intros; rfl)

theorem setPhase_interruptible (b) : Interruptible (setPhase b) :=
  .update (by intros; rfl) (by intros; rfl)

theorem warn_interruptible (b) : Interruptible (warn b) :=
  .primitive (Atomic.update (by intros; rfl) (by intros; exact ⟨_, rfl⟩))

theorem delay_interruptible (b) : Interruptible (delay b) :=
  .primitive (Atomic.update (by intros; rfl) (by intros; exact ⟨_, rfl⟩))

theorem indicator_interruptible (b) : Interruptible (indicator b) :=
  .primitive (Atomic.update (by intros; rfl) (by intros; exact ⟨_, rfl⟩))

theorem setPattern_interruptible (b) : Interruptible (setPattern b) :=
  .update (by intros; rfl) (by intros; rfl)

theorem now_interruptible : Interruptible now := by
  refine Interruptible.primitive ⟨fun s resets => rfl, fun s t h => ?_, fun s => ⟨[_], rfl,
    Nat.le_refl _⟩⟩
  cases h

theorem readStatus_interruptible (P) : Interruptible (readStatus P) :=
  (setOpcode_interruptible _).bind fun _ => (shiftInstruction_interruptible _ _ _).bind fun _ =>
  (shiftData_interruptible _ _ _).bind fun _ => .pure _

theorem warnViolations_interruptible (a l) : Interruptible (warnViolations a l) := by
  induction l with
  | nil => exact .pure _
  | cons v l ih => exact (warn_interruptible _).bind fun _ => ih

theorem judgeViolations_interruptible (a b c l) : Interruptible (judgeViolations a b c l) := by
  cases l
  · exact .pure _
  · exact .ite (warnViolations_interruptible _ _) (.raise _)

theorem checkStatus_interruptible (P c) : Interruptible (checkStatus P c) :=
  (readStatus_interruptible _).bind fun _ =>
  (Interruptible.runIf (warn_interruptible _)).bind fun _ => judgeViolations_interruptible _ _ _ _

theorem execCommand_interruptible (P opcode operand idle run check) :
    Interruptible (execCommand P opcode operand idle run check) := by
  refine (setOpcode_interruptible _).bind fun _ => (shiftInstruction_interruptible _ _ _).bind
    fun _ => Interruptible.bind ?_ fun _ => (runTest_interruptible _ _).bind fun _ =>
    Interruptible.bind ?_ fun _ => .pure _
  · cases operand
    · exact .pure _
    · exact (shiftData_interruptible _ _ _).bind fun _ => .pure _
  · cases check
    · exact .pure _
    · exact checkStatus_interruptible _ _

theorem pollLoop_interruptible (P p a b n) (h : Interruptible p) :
    Interruptible (pollLoop P p a b n) := by
  induction n with
  | zero => exact .abortWith nofun
  | succ n ih => exact h.bind fun _ => .ite (.pure _) (now_interruptible.bind fun _ =>
    .ite (.raise _) ((delay_interruptible _).bind fun _ => ih))

theorem pollUntil_interruptible (P t a p) (h : Interruptible p) : Interruptible (pollUntil P t a
  p) := now_interruptible.bind fun _ => pollLoop_interruptible _ _ _ _ _ h

theorem waitForCompletion_interruptible (P t) : Interruptible (waitForCompletion P t) :=
  (Interruptible.observe (by intros; rfl)).bind fun _ =>
  pollUntil_interruptible _ _ _ _ ((readStatus_interruptible _).bind fun _ => .pure _)

theorem restart_interruptible (P) : Interruptible (restart P) := by
  unfold restart; split
  · exact (execCommand_interruptible _ _ _ _ _ _).bind fun _ => .pure _
  · exact .primitive (Atomic.update (by intros; rfl) (by intros; exact ⟨_, rfl⟩))

theorem preconfigure_interruptible (P) : Interruptible (preconfigure P) :=
  (execCommand_interruptible _ _ _ _ _ _).bind fun _ => .pure _

theorem initAddress_interruptible (P) : Interruptible (initAddress P) :=
  (execCommand_interruptible _ _ _ _ _ _).bind fun _ => .pure _

theorem iscErase_interruptible (P) : Interruptible (iscErase P) :=
  (execCommand_interruptible _ _ _ _ _ _).bind fun _ => .pure _

theorem setIsc_interruptible (b) : Interruptible (setIsc b) :=
  .update (by intros; rfl) (by intros; rfl)

theorem iscEnable_interruptible (P) : Interruptible (iscEnable P) :=
  (setIsc_interruptible _).bind fun _ => (execCommand_interruptible _ _ _ _ _ _).bind fun _ =>
  .pure _

theorem iscDisable_interruptible (P c) : Interruptible (iscDisable P c) :=
  (setIsc_interruptible _).bind fun _ => (execCommand_interruptible _ _ _ _ _ _).bind fun _ =>
  .pure _

theorem readPartId_interruptible (P) : Interruptible (readPartId P) :=
  (setOpcode_interruptible _).bind fun _ => (shiftInstruction_interruptible _ _ _).bind fun _ =>
  (shiftData_interruptible _ _ _).bind fun _ =>
  .ite (.raise _) ((Interruptible.update (by intros; rfl) (by intros; rfl)).bind fun _ => .pure _)

theorem sessionBegin_interruptible : Interruptible sessionBegin :=
  .update (by intros; rfl) (by intros; rfl)

theorem eraseAndWait_interruptible (P) : Interruptible (eraseAndWait P) :=
  (iscErase_interruptible _).bind fun _ => (waitForCompletion_interruptible _ _).bind fun _ =>
  checkStatus_interruptible _ _

theorem burst_interruptible (P b) : Interruptible (burst P b) :=
  (setOpcode_interruptible _).bind fun _ => (shiftInstruction_interruptible _ _ _).bind fun _ =>
  (shiftData_interruptible _ _ _).bind fun _ => .pure _

theorem judgeTeardown_interruptible (failed e) : Interruptible (judgeTeardown failed e) := by
  unfold judgeTeardown; split
  · exact .pure _
  · exact .ite ((warn_interruptible _).bind fun _ => .pure _) (.pure _)

theorem teardown_interruptible (P f) : Interruptible (teardown P f) :=
  (Interruptible.attempt ((Interruptible.observe (by intros; rfl)).bind fun _ =>
    (Interruptible.runIf (iscDisable_interruptible _ _)).bind fun _ =>
    moveToState_interruptible _)).bind fun _ => (judgeTeardown_interruptible _ _).bind fun _ =>
  (Interruptible.update (by intros; rfl) (by intros; rfl)).bind fun _ => .pure _

theorem raisePending_interruptible (p) : Interruptible (raisePending p) := by
  cases p
  · exact .pure _
  · exact .abortWith nofun

theorem sessionEnd_interruptible (P p f) : Interruptible (sessionEnd P p f) :=
  (setPhase_interruptible _).bind fun _ => (teardown_interruptible _ _).bind fun _ =>
  raisePending_interruptible _

theorem configure_interruptible (P b) : Interruptible (configure P b) :=
  (Interruptible.refuseIf _ _).bind fun _ => sessionBegin_interruptible.bind fun _ =>
  (indicator_interruptible _).bind fun _ => (setPattern_interruptible _).bind fun _ =>
  (Interruptible.withCleanup ((setPhase_interruptible _).bind fun _ =>
    (readPartId_interruptible _).bind fun _ => (setPhase_interruptible _).bind fun _ =>
    (restart_interruptible _).bind fun _ => (delay_interruptible _).bind fun _ =>
    (setPhase_interruptible _).bind fun _ => (preconfigure_interruptible _).bind fun _ =>
    (setPhase_interruptible _).bind fun _ => (iscEnable_interruptible _).bind fun _ =>
    (setPhase_interruptible _).bind fun _ => (eraseAndWait_interruptible _).bind fun _ =>
    (setPhase_interruptible _).bind fun _ => (initAddress_interruptible _).bind fun _ =>
    (burst_interruptible _ _).bind fun _ => (setPhase_interruptible _).bind fun _ =>
    (runTest_interruptible _ _).bind fun _ => (setPhase_interruptible _).bind fun _ =>
    (checkStatus_interruptible _ _).bind fun _ => (setPhase_interruptible _).bind fun _ =>
    iscDisable_interruptible _ _)
   fun _ => (setPhase_interruptible _).bind fun _ => (teardown_interruptible _ _).bind fun _ =>
     (indicator_interruptible _).bind fun _ => (setPattern_interruptible _).bind fun _ =>
     raisePending_interruptible _).bind fun _ => .observe (by intros; rfl)

theorem unconfigure_interruptible (P) : Interruptible (unconfigure P) :=
  sessionBegin_interruptible.bind fun _ => .withCleanup ((setPhase_interruptible _).bind fun _ =>
  (restart_interruptible _).bind fun _ => (delay_interruptible _).bind fun _ =>
  (setPhase_interruptible _).bind fun _ => (preconfigure_interruptible _).bind fun _ =>
  (setPhase_interruptible _).bind fun _ => (iscEnable_interruptible _).bind fun _ =>
  (setPhase_interruptible _).bind fun _ => (eraseAndWait_interruptible _).bind fun _ =>
  (setPhase_interruptible _).bind fun _ => iscDisable_interruptible _ _) fun _ =>
  sessionEnd_interruptible _ _ _

theorem triggerReconfiguration_interruptible (P) : Interruptible (triggerReconfiguration P) :=
  (restart_interruptible _).bind fun _ => runTest_interruptible _ _

theorem enterBackgroundSpi_interruptible (P) : Interruptible (enterBackgroundSpi P) :=
  (execCommand_interruptible _ _ _ _ _ _).bind fun _ => .update (by intros; rfl) (by intros; rfl)

theorem bgSpiTransfer_interruptible (o) : Interruptible (bgSpiTransfer o) :=
  (setOpcode_interruptible _).bind fun _ => (shiftData_interruptible _ _ _).bind fun _ => .pure _

theorem flashStatus_interruptible (P) : Interruptible (flashStatus P) :=
  (bgSpiTransfer_interruptible _).bind fun _ => .pure _

theorem flashWaitIdle_interruptible (P t a) : Interruptible (flashWaitIdle P t a) :=
  pollUntil_interruptible _ _ _ _ ((flashStatus_interruptible _).bind fun _ => .pure _)

theorem flashWriteEnable_interruptible (P) : Interruptible (flashWriteEnable P) :=
  (bgSpiTransfer_interruptible _).bind fun _ =>
  pollUntil_interruptible _ _ _ _ ((flashStatus_interruptible _).bind fun _ => .pure _)

theorem flashModify_interruptible (P a b c) : Interruptible (flashModify P a b c) :=
  (flashWriteEnable_interruptible _).bind fun _ => (bgSpiTransfer_interruptible _).bind fun _ =>
  flashWaitIdle_interruptible _ _ _

theorem writePages_interruptible (P b o k n) : Interruptible (writePages P b o k n) := by
  induction n generalizing k with
  | zero => exact .pure _
  | succ n ih => exact (flashModify_interruptible _ _ _ _).bind fun _ => ih _

theorem readPages_interruptible (P b o k n) : Interruptible (readPages P b o k n) := by
  induction n generalizing k with
  | zero => exact .pure _
  | succ n ih => exact (bgSpiTransfer_interruptible _).bind fun _ => (ih _).bind fun _ => .pure _

theorem readFlashId_interruptible (P) : Interruptible (readFlashId P) :=
  sessionBegin_interruptible.bind fun _ =>
  (Interruptible.withCleanup ((setPhase_interruptible _).bind fun _ =>
  (enterBackgroundSpi_interruptible _).bind fun _ => (setPhase_interruptible _).bind fun _ =>
  bgSpiTransfer_interruptible _) fun _ => sessionEnd_interruptible _ _ _).bind fun _ => .pure _

theorem readFlashUid_interruptible (P) : Interruptible (readFlashUid P) :=
  sessionBegin_interruptible.bind fun _ =>
  (Interruptible.withCleanup ((setPhase_interruptible _).bind fun _ =>
  (enterBackgroundSpi_interruptible _).bind fun _ => (setPhase_interruptible _).bind fun _ =>
  bgSpiTransfer_interruptible _) fun _ => sessionEnd_interruptible _ _ _).bind fun _ => .pure _

theorem eraseFlash_interruptible (P) : Interruptible (eraseFlash P) :=
  sessionBegin_interruptible.bind fun _ =>
  (.withCleanup ((setPhase_interruptible _).bind fun _ =>
  (enterBackgroundSpi_interruptible _).bind fun _ => (setPhase_interruptible _).bind fun _ =>
  (flashWriteEnable_interruptible _).bind fun _ => (setPhase_interruptible _).bind fun _ =>
  (bgSpiTransfer_interruptible _).bind fun _ => flashWaitIdle_interruptible _ _ _) fun _ =>
  sessionEnd_interruptible _ _ _)

theorem flashWrite_interruptible (P o) : Interruptible (flashWrite P o) :=
  (Interruptible.refuseIf _ _).bind fun _ => (Interruptible.refuseIf _ _).bind fun _ =>
  sessionBegin_interruptible.bind fun _ =>
  (Interruptible.withCleanup ((setPhase_interruptible _).bind fun _ =>
  (enterBackgroundSpi_interruptible _).bind fun _ => (setPhase_interruptible _).bind fun _ =>
  (Interruptible.runIf (flashModify_interruptible _ _ _ _)).bind fun _ =>
  (setPhase_interruptible _).bind fun _ =>
  (Interruptible.runIf (flashModify_interruptible _ _ _ _)).bind fun _ =>
  (setPhase_interruptible _).bind fun _ => writePages_interruptible _ _ _ _ _) fun _ =>
  sessionEnd_interruptible _ _ _).bind fun _ => (setPhase_interruptible _).bind fun _ =>
  triggerReconfiguration_interruptible _

theorem readFlash_interruptible (P a b) : Interruptible (readFlash P a b) :=
  (Interruptible.refuseIf _ _).bind fun _ => sessionBegin_interruptible.bind fun _ =>
  .withCleanup ((setPhase_interruptible _).bind fun _ =>
  (enterBackgroundSpi_interruptible _).bind fun _ => (setPhase_interruptible _).bind fun _ =>
  readPages_interruptible _ _ _ _ _) fun _ => sessionEnd_interruptible _ _ _

theorem setBitbang_interruptible (b) : Interruptible (setBitbang b) :=
  .update (by intros; rfl) (by intros; rfl)

theorem spiTunneled_interruptible (P d) : Interruptible (spiTunneled P d) :=
  (shiftInstruction_interruptible _ _ _).bind fun _ => (setBitbang_interruptible _).bind fun _ =>
  (Interruptible.withCleanup (shiftData_interruptible _ _ _) fun _ =>
  setBitbang_interruptible _).bind fun _ => .pure _

theorem spiDirect_interruptible (c d) : Interruptible (spiDirect c d) := by
  refine Interruptible.primitive ⟨fun s resets => ?_, fun s t h => ?_, fun s => ?_⟩
  · unfold spiExchange
    have : spiAnswer (withResets resets s) = spiAnswer s := rfl
    simp only [this]
    cases spiAnswer s with
    | bytes r => simp only; split <;> rfl
    | _ => rfl
  · unfold spiExchange at h
    cases hl : spiAnswer s <;> rw [hl] at h
    · simp only at h; split at h <;> cases h
    all_goals cases h
  · unfold spiExchange
    cases spiAnswer s with
    | bytes r =>
      simp only; split
      · exact ⟨[_], rfl, Nat.le_refl _⟩
      · exact ⟨[], rfl, Nat.zero_le _⟩
    | _ => exact ⟨[], rfl, Nat.zero_le _⟩

theorem spiTransfer_interruptible (P d i) : Interruptible (spiTransfer P d i) :=
  (Interruptible.refuseIf _ _).bind fun _ => by
  cases P.spiVariant
  · exact spiTunneled_interruptible _ _
  · exact spiDirect_interruptible _ _

theorem spiRegTransaction_interruptible (P a b c) : Interruptible (spiRegTransaction P a b c) :=
  (Interruptible.refuseIf _ _).bind fun _ => (Interruptible.refuseIf _ _).bind fun _ =>
  (spiTransfer_interruptible _ _ _).bind fun _ => .pure _

end Sys2Proof.Machine
end

