-- ==== Sys2Proof/Laws/PerInstr.lean ====
section
/-! SUPPORT. One law for every command: what its frame is (spec/30_encoding.md R80, R82, R86, R94).
A host command's frame is the header of R80 around its own fields, under the operation code that
R82's table reads as it; a row of the wire tables is a frame of its own space with a first byte. -/

namespace Sys2Proof.Laws

open Sys2Proof.Machine

/-- The frame of a command, at any parameters. -/
def EncodedFrame.Statement (i : Instr) : Prop :=
  ∀ P : Params, match fieldUse i with
    | some (f, _) => ∃ op command, hostOperation op = some command ∧ command f = i
        ∧ WellFormed i = f.encodable ∧ encode P i = encodeHost op f
    | none => ∃ first rest, (encode P i).bytes = first :: rest ∧ (encode P i).space ≠ .host

theorem EncodedFrame.acquire (f : HostFields) : EncodedFrame.Statement (.acquire f) :=
  fun _ => ⟨opAcquire, .acquire, rfl, rfl, rfl, rfl⟩

theorem EncodedFrame.release (f : HostFields) : EncodedFrame.Statement (.release f) :=
  fun _ => ⟨opRelease, .release, rfl, rfl, rfl, rfl⟩

theorem EncodedFrame.tapReset (f : HostFields) : EncodedFrame.Statement (.tapReset f) :=
  fun _ => ⟨opTapReset, .tapReset, rfl, rfl, rfl, rfl⟩

theorem EncodedFrame.moveToState (f : HostFields) : EncodedFrame.Statement (.moveToState f) :=
  fun _ => ⟨opMoveToState, .moveToState, rfl, rfl, rfl, rfl⟩

theorem EncodedFrame.shiftInstruction (f : HostFields) :
    EncodedFrame.Statement (.shiftInstruction f) :=
  fun _ => ⟨opShiftInstruction, .shiftInstruction, rfl, rfl, rfl, rfl⟩

theorem EncodedFrame.shiftData (f : HostFields) : EncodedFrame.Statement (.shiftData f) :=
  fun _ => ⟨opShiftData, .shiftData, rfl, rfl, rfl, rfl⟩

theorem EncodedFrame.runTest (f : HostFields) : EncodedFrame.Statement (.runTest f) :=
  fun _ => ⟨opRunTest, .runTest, rfl, rfl, rfl, rfl⟩

theorem EncodedFrame.enumerate (f : HostFields) : EncodedFrame.Statement (.enumerate f) :=
  fun _ => ⟨opEnumerate, .enumerate, rfl, rfl, rfl, rfl⟩

theorem EncodedFrame.forceBitbang (f : HostFields) : EncodedFrame.Statement (.forceBitbang f) :=
  fun _ => ⟨opForceBitbang, .forceBitbang, rfl, rfl, rfl, rfl⟩

theorem EncodedFrame.playPattern (f : HostFields) : EncodedFrame.Statement (.playPattern f) :=
  fun _ => ⟨opPlayPattern, .playPattern, rfl, rfl, rfl, rfl⟩

theorem EncodedFrame.setIndicator (f : HostFields) : EncodedFrame.Statement (.setIndicator f) :=
  fun _ => ⟨opSetIndicator, .setIndicator, rfl, rfl, rfl, rfl⟩

theorem EncodedFrame.detectWidths (f : HostFields) : EncodedFrame.Statement (.detectWidths f) :=
  fun _ => ⟨opDetectWidths, .detectWidths, rfl, rfl, rfl, rfl⟩

theorem EncodedFrame.regTransaction (f : HostFields) :
    EncodedFrame.Statement (.regTransaction f) :=
  fun _ => ⟨opRegTransaction, .regTransaction, rfl, rfl, rfl, rfl⟩

theorem EncodedFrame.regRead (f : HostFields) : EncodedFrame.Statement (.regRead f) :=
  fun _ => ⟨opRegRead, .regRead, rfl, rfl, rfl, rfl⟩

theorem EncodedFrame.regWrite (f : HostFields) : EncodedFrame.Statement (.regWrite f) :=
  fun _ => ⟨opRegWrite, .regWrite, rfl, rfl, rfl, rfl⟩

theorem EncodedFrame.configure (f : HostFields) : EncodedFrame.Statement (.configure f) :=
  fun _ => ⟨opConfigure, .configure, rfl, rfl, rfl, rfl⟩

theorem EncodedFrame.unconfigure (f : HostFields) : EncodedFrame.Statement (.unconfigure f) :=
  fun _ => ⟨opUnconfigure, .unconfigure, rfl, rfl, rfl, rfl⟩

theorem EncodedFrame.triggerReconfiguration (f : HostFields) :
    EncodedFrame.Statement (.triggerReconfiguration f) :=
  fun _ => ⟨opTriggerReconfiguration, .triggerReconfiguration, rfl, rfl, rfl, rfl⟩

theorem EncodedFrame.readFlashId (f : HostFields) : EncodedFrame.Statement (.readFlashId f) :=
  fun _ => ⟨opReadFlashId, .readFlashId, rfl, rfl, rfl, rfl⟩

theorem EncodedFrame.readFlashUid (f : HostFields) : EncodedFrame.Statement (.readFlashUid f) :=
  fun _ => ⟨opReadFlashUid, .readFlashUid, rfl, rfl, rfl, rfl⟩

theorem EncodedFrame.eraseFlash (f : HostFields) : EncodedFrame.Statement (.eraseFlash f) :=
  fun _ => ⟨opEraseFlash, .eraseFlash, rfl, rfl, rfl, rfl⟩

theorem EncodedFrame.flash (f : HostFields) : EncodedFrame.Statement (.flash f) :=
  fun _ => ⟨opFlash, .flash, rfl, rfl, rfl, rfl⟩

theorem EncodedFrame.readFlash (f : HostFields) : EncodedFrame.Statement (.readFlash f) :=
  fun _ => ⟨opReadFlash, .readFlash, rfl, rfl, rfl, rfl⟩

theorem EncodedFrame.spiTransfer (f : HostFields) : EncodedFrame.Statement (.spiTransfer f) :=
  fun _ => ⟨opSpiTransfer, .spiTransfer, rfl, rfl, rfl, rfl⟩

theorem EncodedFrame.spiRegTransaction (f : HostFields) :
    EncodedFrame.Statement (.spiRegTransaction f) :=
  fun _ => ⟨opSpiRegTransaction, .spiRegTransaction, rfl, rfl, rfl, rfl⟩

theorem EncodedFrame.spiRegRead (f : HostFields) : EncodedFrame.Statement (.spiRegRead f) :=
  fun _ => ⟨opSpiRegRead, .spiRegRead, rfl, rfl, rfl, rfl⟩

theorem EncodedFrame.spiRegWrite (f : HostFields) : EncodedFrame.Statement (.spiRegWrite f) :=
  fun _ => ⟨opSpiRegWrite, .spiRegWrite, rfl, rfl, rfl, rfl⟩

theorem EncodedFrame.opcReadId : EncodedFrame.Statement .opcReadId :=
  fun _ => ⟨_, _, rfl, nofun⟩

theorem EncodedFrame.opcLscReadStatus : EncodedFrame.Statement .opcLscReadStatus :=
  fun _ => ⟨_, _, rfl, nofun⟩

theorem EncodedFrame.opcIscEnable : EncodedFrame.Statement .opcIscEnable :=
  fun _ => ⟨_, _, rfl, nofun⟩

theorem EncodedFrame.opcIscDisable : EncodedFrame.Statement .opcIscDisable :=
  fun _ => ⟨_, _, rfl, nofun⟩

theorem EncodedFrame.opcIscErase : EncodedFrame.Statement .opcIscErase :=
  fun _ => ⟨_, _, rfl, nofun⟩

theorem EncodedFrame.opcLscRefresh : EncodedFrame.Statement .opcLscRefresh :=
  fun _ => ⟨_, _, rfl, nofun⟩

theorem EncodedFrame.opcPreconf : EncodedFrame.Statement .opcPreconf :=
  fun _ => ⟨_, _, rfl, nofun⟩

theorem EncodedFrame.opcLscInitAddress : EncodedFrame.Statement .opcLscInitAddress :=
  fun _ => ⟨_, _, rfl, nofun⟩

theorem EncodedFrame.opcLscBitstreamBurst (bitstream : List Byte) :
    EncodedFrame.Statement (.opcLscBitstreamBurst bitstream) :=
  fun _ => ⟨_, _, rfl, nofun⟩

theorem EncodedFrame.opcLscEnterBackgroundSpi : EncodedFrame.Statement .opcLscEnterBackgroundSpi :=
  fun _ => ⟨_, _, rfl, nofun⟩

theorem EncodedFrame.opcVerifyId : EncodedFrame.Statement .opcVerifyId :=
  fun _ => ⟨_, _, rfl, nofun⟩

theorem EncodedFrame.opcMetaIr (word : List Byte) : EncodedFrame.Statement (.opcMetaIr word) :=
  fun _ => ⟨_, _, rfl, nofun⟩

theorem EncodedFrame.opcMetaDr (word : List Byte) : EncodedFrame.Statement (.opcMetaDr word) :=
  fun _ => ⟨_, _, rfl, nofun⟩

theorem EncodedFrame.opcSpiDebug (data : List Byte) : EncodedFrame.Statement (.opcSpiDebug data) :=
  fun _ => ⟨_, _, rfl, nofun⟩

theorem EncodedFrame.flJedecId : EncodedFrame.Statement .flJedecId :=
  fun _ => ⟨_, _, rfl, nofun⟩

theorem EncodedFrame.flWriteEnable : EncodedFrame.Statement .flWriteEnable :=
  fun _ => ⟨_, _, rfl, nofun⟩

theorem EncodedFrame.flChipErase : EncodedFrame.Statement .flChipErase :=
  fun _ => ⟨_, _, rfl, nofun⟩

theorem EncodedFrame.flWritePage (addr : BitVec 24) (data : List Byte) :
    EncodedFrame.Statement (.flWritePage addr data) :=
  fun _ => ⟨_, _, rfl, nofun⟩

theorem EncodedFrame.flReadPage (addr : BitVec 24) (count : Nat) :
    EncodedFrame.Statement (.flReadPage addr count) :=
  fun _ => ⟨_, _, rfl, nofun⟩

theorem EncodedFrame.flReadStatus : EncodedFrame.Statement .flReadStatus :=
  fun _ => ⟨_, _, rfl, nofun⟩

theorem EncodedFrame.flWriteStatus : EncodedFrame.Statement .flWriteStatus :=
  fun _ => ⟨_, _, rfl, nofun⟩

theorem EncodedFrame.flReadUid : EncodedFrame.Statement .flReadUid :=
  fun _ => ⟨_, _, rfl, nofun⟩

end Sys2Proof.Laws
end

