-- ==== Sys2Proof/Laws/Tracking.lean ====
section
/-! SUPPORT. Which state elements a plan leaves alone: a plan without the steps that write an
element keeps it. -/

namespace Sys2Proof.Machine

variable {P : Params} {s : State}

/-! ### Steps by what they write -/

def Act.keepsPhase : Act → Bool
  | .phase _ => false
  | _ => true

def Act.keepsOpcode : Act → Bool
  | .opcode _ => false
  | _ => true

def Act.keepsIsc : Act → Bool
  | .isc _ | .session | .closeSession => false
  | _ => true

def Act.keepsPartId : Act → Bool
  | .partId _ | .session => false
  | _ => true

def Act.keepsWidths : Act → Bool
  | .widths _ _ => false
  | _ => true

def Act.keepsClock : Act → Bool
  | .clockRead => false
  | _ => true

/-! ### What is kept -/

/-- An element that each step of a plan keeps, the plan keeps. -/
theorem performed_keeps {α : Type} (element : State → α) (keeps : Act → Bool)
    (h : ∀ a s, keeps a = true → element (a.apply s) = element s) {plan : List Act}
    (hp : plan.all keeps = true) : element (performed plan s) = element s := by
  induction plan generalizing s with
  | nil => rfl
  | cons a plan ih =>
    simp only [List.all_cons, Bool.and_eq_true] at hp
    rw [performed_cons, ih hp.2, h a s hp.1]

theorem performed_seqOp (plan : List Act) (s : State) : (performed plan s).seqOp = s.seqOp :=
  performed_keeps State.seqOp (fun _ => true) (fun a s _ => by cases a <;> rfl)
    (List.all_eq_true.mpr fun _ _ => rfl)

theorem performed_tapOwner (plan : List Act) (s : State) :
    (performed plan s).tapOwner = s.tapOwner :=
  performed_keeps State.tapOwner (fun _ => true) (fun a s _ => a.apply_owner s)
    (List.all_eq_true.mpr fun _ _ => rfl)

theorem performed_seqPhase {plan : List Act} (h : plan.all Act.keepsPhase = true) :
    (performed plan s).seqPhase = s.seqPhase :=
  performed_keeps State.seqPhase Act.keepsPhase (fun a s h => by cases a <;> first | rfl | cases h) h

theorem performed_seqOpcode {plan : List Act} (h : plan.all Act.keepsOpcode = true) :
    (performed plan s).seqOpcode = s.seqOpcode :=
  performed_keeps State.seqOpcode Act.keepsOpcode
    (fun a s h => by cases a <;> first | rfl | cases h) h

theorem performed_cfgIsc {plan : List Act} (h : plan.all Act.keepsIsc = true) :
    (performed plan s).cfgIsc = s.cfgIsc :=
  performed_keeps State.cfgIsc Act.keepsIsc (fun a s h => by cases a <;> first | rfl | cases h) h

theorem performed_cfgPartId {plan : List Act} (h : plan.all Act.keepsPartId = true) :
    (performed plan s).cfgPartId = s.cfgPartId :=
  performed_keeps State.cfgPartId Act.keepsPartId
    (fun a s h => by cases a <;> first | rfl | cases h) h

/-- A plan that reads no clock leaves the clock's answers for later. -/
theorem performed_clock {plan : List Act} (h : plan.all Act.keepsClock = true) :
    (performed plan s).clock = s.clock :=
  performed_keeps State.clock Act.keepsClock (fun a s h => by cases a <;> first | rfl | cases h) h

theorem performed_widths {plan : List Act} (h : plan.all Act.keepsWidths = true) :
    (performed plan s).rafValid = s.rafValid ∧ (performed plan s).rafIw = s.rafIw
      ∧ (performed plan s).rafDw = s.rafDw := by
  have := performed_keeps (s := s) (fun s => (s.rafValid, s.rafIw, s.rafDw)) Act.keepsWidths
    (fun a s h => by cases a <;> first | rfl | cases h) h
  simpa using this

/-! ### The plans -/

theorem validatePlan_warns {status : Word32} {check : StatusCheck} {a : Act}
    (h : a ∈ validatePlan P status check) : ∃ w, a = .warn w := by
  rw [validatePlan, List.mem_append] at h
  rcases h with h | h
  · split at h
    · exact ⟨_, List.mem_singleton.mp h⟩
    · cases h
  · split at h
    · obtain ⟨v, -, h⟩ := List.mem_map.mp h
      exact ⟨_, h.symm⟩
    · cases h

theorem validatePlan_all (status : Word32) (check : StatusCheck) (keeps : Act → Bool)
    (h : ∀ w, keeps (.warn w) = true) : (validatePlan P status check).all keeps = true :=
  List.all_eq_true.mpr fun a ha => by obtain ⟨w, rfl⟩ := validatePlan_warns ha; exact h w

theorem checkPlan_keepsPhase (check : StatusCheck) (c : ScanPair) :
    (checkPlan P check c).all Act.keepsPhase = true := by
  rw [checkPlan, List.all_append, validatePlan_all _ _ _ fun _ => rfl]; rfl

theorem checkPlan_keepsIsc (check : StatusCheck) (c : ScanPair) :
    (checkPlan P check c).all Act.keepsIsc = true := by
  rw [checkPlan, List.all_append, validatePlan_all _ _ _ fun _ => rfl]; rfl

theorem checkPlan_keepsPartId (check : StatusCheck) (c : ScanPair) :
    (checkPlan P check c).all Act.keepsPartId = true := by
  rw [checkPlan, List.all_append, validatePlan_all _ _ _ fun _ => rfl]; rfl

theorem performed_checkPlan_seqOpcode (check : StatusCheck) (c : ScanPair) (s : State) :
    (performed (checkPlan P check c) s).seqOpcode = P.opcLscReadStatus := by
  rw [checkPlan, performed_append, performed_seqOpcode (validatePlan_all _ _ _ fun _ => rfl)]; rfl

theorem commandPlan_keepsPhase (opc : Byte) (operand : Option BitVector) (idle : Nat)
    (t : TapState) (c : CommandScans) :
    (commandPlan opc operand idle t c).all Act.keepsPhase = true := by cases operand <;> rfl

theorem commandPlan_keepsIsc (opc : Byte) (operand : Option BitVector) (idle : Nat)
    (t : TapState) (c : CommandScans) :
    (commandPlan opc operand idle t c).all Act.keepsIsc = true := by cases operand <;> rfl

theorem commandPlan_keepsPartId (opc : Byte) (operand : Option BitVector) (idle : Nat)
    (t : TapState) (c : CommandScans) :
    (commandPlan opc operand idle t c).all Act.keepsPartId = true := by cases operand <;> rfl

theorem restartPlan_keepsIsc (c : CommandScans) :
    (restartPlan P c).all Act.keepsIsc = true := by unfold restartPlan; split <;> rfl

theorem restartPlan_keepsPartId (c : CommandScans) :
    (restartPlan P c).all Act.keepsPartId = true := by unfold restartPlan; split <;> rfl

theorem pagesPlan_keepsIsc (bitstream : List Byte) (offset k : Nat) (pages : List ModifyScans) :
    (pagesPlan P bitstream offset k pages).all Act.keepsIsc = true := by
  induction pages generalizing k with
  | nil => rfl
  | cons c pages ih => rw [pagesPlan, List.all_append, List.all_append, ih]; rfl

theorem chunksPlan_keepsIsc (offset length k : Nat) (chunks : List Scan) :
    (chunksPlan P offset length k chunks).all Act.keepsIsc = true := by
  induction chunks generalizing k with
  | nil => rfl
  | cons c chunks ih => rw [chunksPlan, List.all_append, ih]; rfl

theorem busyPolls_keepsPhase (polls : List ScanPair) :
    (busyPolls P polls).all Act.keepsPhase = true := by
  rw [busyPolls, repeatedPolls, List.all_flatMap]; simp [statusPlan, Act.keepsPhase]

theorem flashPolls_keepsPhase (polls : List Scan) :
    (flashPolls P polls).all Act.keepsPhase = true := by
  rw [flashPolls, repeatedPolls, List.all_flatMap]
  simp [flashStatusPlan, transferPlan, Act.keepsPhase]

/-- R195: a session begun in a plan has ISC not active until a step says so. -/
theorem performed_session_cfgIsc {plan : List Act} (h : plan.all Act.keepsIsc = true) :
    (performed (.session :: plan) s).cfgIsc = false := by
  rw [performed_cons, performed_cfgIsc h]; rfl

end Sys2Proof.Machine
end

