-- ==== Sys2Proof/Laws/Sessions.lean ====
section
/-! SUPPORT. Status checks that fail, the cleanup blocks of sessions, and poll loops of any length,
on a link that answers. -/

namespace Sys2Proof.Machine

variable {P : Params} {s : State}

/-! ### Status checks, R190 -/

/-- A check that finds violations and does not go on: all it does. -/
theorem checkStatus_fails {check : StatusCheck} {c : ScanPair} {v : Violation}
    {rest : List Violation} (hc : check.continueAnyway = false)
    (hv : violations (decodeStatus P c.data.word32) check.requireDone check.requireIsc = v :: rest)
    (h : Ready (checkPlan P check c) s) :
    checkStatus P check s = .error
      (.raised (.protocolViolation v (decodeStatus P c.data.word32).errcode c.data.word32)
        (errorRecord (.protocolViolation v (decodeStatus P c.data.word32).errcode c.data.word32)
          (performed (checkPlan P check c) s)))
      (performed (checkPlan P check c) s) := by
  obtain ⟨h1, -⟩ := ready_append h
  rw [checkStatus]
  refine (bind_ok (readStatus_plan h1)).trans ?_
  rw [validateStatus_run _ _ (by rw [performed_resets]; exact h.resets), hc, hv, checkPlan, performed_append]

/-! ### Cleanup blocks, R196 -/

/-- A session around a body that returns in IDLE with ISC not active. -/
theorem withCleanup_sessionEnd {α : Type} {body : Engine α} {s' : State} {x : α} {phase : Nat}
    (hb : body s = .ok x s') (hi : s'.cfgIsc = false) (h : Ready (sessionEndPlan phase) s') :
    withCleanup body (sessionEnd P phase) s = .ok x (performed (sessionEndPlan phase) s') :=
  withCleanup_ok hb (sessionEnd_plan hi h)

/-- The cleanup of `CONFIGURE` in IDLE with ISC not active, whether or not its body failed. -/
theorem configureEnd_plan (failed : Bool) (hi : s.cfgIsc = false)
    (h : Ready (configureEndPlan P) s) :
    configureEnd P failed s = .ok () (performed (configureEndPlan P) s) := by
  obtain ⟨h, -⟩ := ready_append h
  obtain ⟨-, h⟩ := ready_cons h
  obtain ⟨h1, -⟩ := ready_cons h
  have ht : teardownPins P { s with seqPhase := 10 }
      = .ok () ((Act.move .idle []).apply { s with seqPhase := 10 }) := by
    rw [teardownPins]
    refine (bind_ok (observe_run _ _)).trans ?_
    have hd : runIf s.cfgIsc (iscDisable P none) { s with seqPhase := 10 }
        = .ok () { s with seqPhase := 10 } := by rw [hi]; rfl
    exact (bind_ok hd).trans (moveToState_act h1)
  have ht2 : teardown P failed { s with seqPhase := 10 }
      = .ok none (Act.closeSession.apply ((Act.move .idle []).apply { s with seqPhase := 10 })) := by
    have : attempt (teardownPins P) { s with seqPhase := 10 }
        = .ok none ((Act.move .idle []).apply { s with seqPhase := 10 }) := by rw [attempt, ht]
    rw [teardown]
    exact (bind_ok this).trans rfl
  rw [configureEnd]
  refine (bind_ok (setPhase_run _ _)).trans ?_
  refine (bind_ok ht2).trans ?_
  exact (bind_ok (indicator_run (s := Act.closeSession.apply
    ((Act.move .idle []).apply { s with seqPhase := 10 })) _ h1.2.1)).trans rfl

/-- The cleanup of a failed `CONFIGURE` with ISC active: ISC is disabled first. -/
theorem configureEnd_isc (c : CommandScans) (hi : s.cfgIsc = true)
    (h : Ready (iscDisablePlan P c ++ configureEndPlan P) s) :
    ∃ t, configureEnd P true s = .ok () t ∧ ∃ phase opcode,
      withSeq s.seqOp phase opcode t = withSeq s.seqOp phase opcode
        (performed (iscDisablePlan P c ++ configureEndPlan P) s) := by
  obtain ⟨h0, h⟩ := ready_append h
  obtain ⟨h, -⟩ := ready_append h
  obtain ⟨-, h⟩ := ready_cons h
  obtain ⟨h1, -⟩ := ready_cons h
  obtain ⟨q, o, e⟩ := performed_withSeq (iscDisablePlan P c) s.seqOp 10 s.seqOpcode s
  have e0 : withSeq s.seqOp 10 s.seqOpcode s = { s with seqPhase := 10 } := rfl
  rw [e0] at e
  have hd := iscDisable_plan (P := P) (s := { s with seqPhase := 10 }) (c := c) h0
  rw [e] at hd
  have ht : teardownPins P { s with seqPhase := 10 } = .ok ()
      ((Act.move .idle []).apply (withSeq s.seqOp q o (performed (iscDisablePlan P c) s))) := by
    rw [teardownPins]
    refine (bind_ok (observe_run _ _)).trans ?_
    have hd' : runIf s.cfgIsc (iscDisable P none) { s with seqPhase := 10 }
        = .ok () (withSeq s.seqOp q o (performed (iscDisablePlan P c) s)) := by rw [hi]; exact hd
    exact (bind_ok hd').trans
      (moveToState_act (s := (withSeq s.seqOp q o (performed (iscDisablePlan P c) s))) h1)
  have ht2 : teardown P true { s with seqPhase := 10 } = .ok none (Act.closeSession.apply
      ((Act.move .idle []).apply (withSeq s.seqOp q o (performed (iscDisablePlan P c) s)))) := by
    have : attempt (teardownPins P) { s with seqPhase := 10 } = .ok none
        ((Act.move .idle []).apply (withSeq s.seqOp q o (performed (iscDisablePlan P c) s))) := by
      rw [attempt, ht]
    rw [teardown]
    exact (bind_ok this).trans rfl
  refine ⟨performed [.indicator P.indIdle] (Act.closeSession.apply
    ((Act.move .idle []).apply (withSeq s.seqOp q o (performed (iscDisablePlan P c) s)))),
    ?_, 0, 0, ?_⟩
  · rw [configureEnd]
    refine (bind_ok (setPhase_run _ _)).trans ?_
    refine (bind_ok ht2).trans ?_
    have hr : (Act.closeSession.apply ((Act.move .idle []).apply
        (withSeq s.seqOp q o (performed (iscDisablePlan P c) s)))).resets = [] := h1.2.1
    generalize Act.closeSession.apply
      ((Act.move .idle []).apply (withSeq s.seqOp q o (performed (iscDisablePlan P c) s))) = u at hr
    exact (bind_ok (indicator_run _ hr)).trans rfl
  · rw [performed_append]
    generalize performed (iscDisablePlan P c) s = u
    simp [configureEndPlan, sessionEndPlan, Act.apply, withSeq, ticked]

/-! ### Poll loops, R191, R282 -/

theorem readTime_zero (advances : List Nat) : readTime P advances 0 = (advances.take 1).sum := by
  simp [readTime]

theorem readTime_succ (a : Nat) (advances : List Nat) (k : Nat) :
    readTime P (a :: advances) (k + 1) = a + P.tPollSleep + readTime P advances k := by
  simp [readTime]; ring

theorem le_readTime (advances : List Nat) (k : Nat) :
    k * P.tPollSleep ≤ readTime P advances k := by rw [readTime]; omega

/-- One poll of a loop: it runs a plan that reads no clock, and answers whether the loop is done. -/
structure PollsBy {α : Type} (poll : Engine Bool) (plan : α → List Act) (done : α → Bool) : Prop where
  run : ∀ c s, Ready (plan c) s → poll s = .ok (done c) (performed (plan c) s)
  clock : ∀ c s, (performed (plan c) s).clock = s.clock
  time : ∀ c s, (performed (plan c) s).time = s.time
  count : ∀ c s, (performed (plan c) s).clockCount = s.clockCount

theorem pollNotBusy_plan :
    PollsBy (pollNotBusy P) (statusPlan P) fun c => !(decodeStatus P c.data.word32).busy where
  run c s h := by rw [pollNotBusy]; exact (bind_ok (readStatus_plan h)).trans rfl
  clock _ _ := by simp [statusPlan, Act.apply, scanned, ticked]
  time _ _ := by simp [statusPlan, Act.apply, scanned, ticked]
  count _ _ := by simp [statusPlan, Act.apply, scanned, ticked]

theorem pollFlashIdle_plan :
    PollsBy (pollFlashIdle P) (flashStatusPlan P) fun c => !flashBusy P c.flashStatusByte where
  run c s h := by rw [pollFlashIdle]; exact (bind_ok (flashStatus_plan h)).trans rfl
  clock _ _ := by simp [flashStatusPlan, transferPlan, Act.apply, scanned, ticked]
  time _ _ := by simp [flashStatusPlan, transferPlan, Act.apply, scanned, ticked]
  count _ _ := by simp [flashStatusPlan, transferPlan, Act.apply, scanned, ticked]

theorem pollFlashWel_plan :
    PollsBy (pollFlashWel P) (flashStatusPlan P) fun c => flashWel P c.flashStatusByte where
  run c s h := by rw [pollFlashWel]; exact (bind_ok (flashStatus_plan h)).trans rfl
  clock _ _ := by simp [flashStatusPlan, transferPlan, Act.apply, scanned, ticked]
  time _ _ := by simp [flashStatusPlan, transferPlan, Act.apply, scanned, ticked]
  count _ _ := by simp [flashStatusPlan, transferPlan, Act.apply, scanned, ticked]

/-- The last poll of a loop. -/
theorem pollLoop_done {α : Type} {poll : Engine Bool} {plan : α → List Act} {done : α → Bool} {c : α}
    {deadline n : Nat} {awaited : Byte} (hp : PollsBy poll plan done) (hd : done c = true)
    (h : Ready (plan c) s) :
    pollLoop P poll deadline awaited (n + 1) s = .ok () (performed (plan c) s) := by
  rw [pollLoop]
  refine (bind_ok (hp.run c s h)).trans ?_
  rw [hd]; rfl

/-- One unsuccessful poll of a loop: the poll, the clock read, and what follows them. -/
theorem pollLoop_again {α : Type} {poll : Engine Bool} {plan : α → List Act} {done : α → Bool}
    {c : α} {deadline n : Nat} {awaited : Byte} (hp : PollsBy poll plan done)
    (hd : done c = false) (h : Ready (plan c) s) :
    pollLoop P poll deadline awaited (n + 1) s
      = (if deadline < s.time + clockAdvance s then
          raise (.timeout awaited)
        else do
          delay P.tPollSleep
          pollLoop P poll deadline awaited n : Engine Unit)
          (performed (plan c ++ [.clockRead]) s) := by
  have e : clockAdvance (performed (plan c) s) = clockAdvance s := by
    rw [clockAdvance, clockAdvance, hp.clock, hp.count]
  have hr : (performed (plan c) s).resets = [] := by rw [performed_resets]; exact h.resets
  have ht := hp.time c s
  rw [pollLoop, performed_append]
  refine (bind_ok (hp.run c s h)).trans ?_
  generalize performed (plan c) s = u at *
  rw [hd, if_neg Bool.false_ne_true]
  refine (bind_ok (now_run hr)).trans ?_
  rw [e, ht, performed_cons, performed_nil, Act.apply, e, ht]

end Sys2Proof.Machine
end

