-- ==== Sys2Proof/Tests/Slice0.lean ====
section
/-! SUPPORT. The model's own tests: refused ill-formed commands, written-out words, vectors of
spec/95_test_vectors.md, and a witness for the hypotheses of every obligation that has some. -/

namespace Sys2Proof.Tests

open Sys2Proof.Machine

-- One theorem after the other: each kernel evaluation would otherwise wait in a thread of its own.
set_option Elab.async false

/-! ### WellFormed: an ill-formed term for each check -/

theorem test_wf_payload_too_long :
    WellFormed (.configure ⟨0#8, 0#32, 0#32, List.replicate (2 ^ 32) 0x00#8⟩) = false := by
  rw [WellFormed, HostFields.encodable, List.length_replicate]; rfl
theorem test_wf_burst_empty : WellFormed (.opcLscBitstreamBurst []) = false := rfl
theorem test_wf_meta_ir_empty : WellFormed (.opcMetaIr []) = false := rfl
theorem test_wf_meta_dr_empty : WellFormed (.opcMetaDr []) = false := rfl
theorem test_wf_spi_debug_empty : WellFormed (.opcSpiDebug []) = false := rfl
theorem test_wf_page_empty : WellFormed (.flWritePage 0#24 []) = false := rfl
theorem test_wf_page_257 :
    WellFormed (.flWritePage 0#24 (List.replicate 257 0x00#8)) = false := by
  rw [WellFormed, List.length_replicate]; rfl
theorem test_wf_page_256 :
    WellFormed (.flWritePage 0#24 (List.replicate 256 0x00#8)) = true := by
  rw [WellFormed, List.length_replicate]; rfl
theorem test_wf_read_0 : WellFormed (.flReadPage 0#24 0) = false := rfl
theorem test_wf_read_257 : WellFormed (.flReadPage 0#24 257) = false := rfl

/-! ### Decode: words written out from R80, R82, R86, R94 -/

/-- Flags 0x81, `a` = 0x01020304, `b` = 0x05060708, `plen` = 1, payload AA (R80). -/
def headerTail : List Byte :=
  [0x81#8, 0x01#8, 0x02#8, 0x03#8, 0x04#8, 0x05#8, 0x06#8, 0x07#8, 0x08#8,
    0x00#8, 0x00#8, 0x00#8, 0x01#8, 0xAA#8]

def headerFields : HostFields := ⟨0x81#8, 0x01020304#32, 0x05060708#32, [0xAA#8]⟩

def decodes (space : Space) (bytes : List Byte) (i : Instr) : Prop :=
  decode Config.params ⟨space, bytes⟩ = .ok i

theorem test_decode_acquire : decodes .host (0x01#8 :: headerTail) (.acquire headerFields) := rfl
theorem test_decode_release : decodes .host (0x02#8 :: headerTail) (.release headerFields) := rfl
theorem test_decode_tapReset : decodes .host (0x03#8 :: headerTail) (.tapReset headerFields) := rfl
theorem test_decode_moveToState :
    decodes .host (0x04#8 :: headerTail) (.moveToState headerFields) := rfl
theorem test_decode_shiftInstruction :
    decodes .host (0x05#8 :: headerTail) (.shiftInstruction headerFields) := rfl
theorem test_decode_shiftData :
    decodes .host (0x06#8 :: headerTail) (.shiftData headerFields) := rfl
theorem test_decode_runTest : decodes .host (0x07#8 :: headerTail) (.runTest headerFields) := rfl
theorem test_decode_enumerate :
    decodes .host (0x08#8 :: headerTail) (.enumerate headerFields) := rfl
theorem test_decode_forceBitbang :
    decodes .host (0x09#8 :: headerTail) (.forceBitbang headerFields) := rfl
theorem test_decode_playPattern :
    decodes .host (0x0A#8 :: headerTail) (.playPattern headerFields) := rfl
theorem test_decode_setIndicator :
    decodes .host (0x0B#8 :: headerTail) (.setIndicator headerFields) := rfl
theorem test_decode_detectWidths :
    decodes .host (0x10#8 :: headerTail) (.detectWidths headerFields) := rfl
theorem test_decode_regTransaction :
    decodes .host (0x11#8 :: headerTail) (.regTransaction headerFields) := rfl
theorem test_decode_regRead : decodes .host (0x12#8 :: headerTail) (.regRead headerFields) := rfl
theorem test_decode_regWrite : decodes .host (0x13#8 :: headerTail) (.regWrite headerFields) := rfl
theorem test_decode_configure :
    decodes .host (0x20#8 :: headerTail) (.configure headerFields) := rfl
theorem test_decode_unconfigure :
    decodes .host (0x21#8 :: headerTail) (.unconfigure headerFields) := rfl
theorem test_decode_triggerReconfiguration :
    decodes .host (0x22#8 :: headerTail) (.triggerReconfiguration headerFields) := rfl
theorem test_decode_readFlashId :
    decodes .host (0x30#8 :: headerTail) (.readFlashId headerFields) := rfl
theorem test_decode_readFlashUid :
    decodes .host (0x31#8 :: headerTail) (.readFlashUid headerFields) := rfl
theorem test_decode_eraseFlash :
    decodes .host (0x32#8 :: headerTail) (.eraseFlash headerFields) := rfl
theorem test_decode_flash : decodes .host (0x33#8 :: headerTail) (.flash headerFields) := rfl
theorem test_decode_readFlash :
    decodes .host (0x34#8 :: headerTail) (.readFlash headerFields) := rfl
theorem test_decode_spiTransfer :
    decodes .host (0x40#8 :: headerTail) (.spiTransfer headerFields) := rfl
theorem test_decode_spiRegTransaction :
    decodes .host (0x41#8 :: headerTail) (.spiRegTransaction headerFields) := rfl
theorem test_decode_spiRegRead :
    decodes .host (0x42#8 :: headerTail) (.spiRegRead headerFields) := rfl
theorem test_decode_spiRegWrite :
    decodes .host (0x43#8 :: headerTail) (.spiRegWrite headerFields) := rfl
theorem test_decode_opcReadId : decodes .jtag [0xE0#8] .opcReadId := rfl
theorem test_decode_opcLscReadStatus : decodes .jtag [0x3C#8] .opcLscReadStatus := rfl
theorem test_decode_opcIscEnable : decodes .jtag [0xC6#8] .opcIscEnable := rfl
theorem test_decode_opcIscDisable : decodes .jtag [0x26#8] .opcIscDisable := rfl
theorem test_decode_opcIscErase : decodes .jtag [0x0E#8] .opcIscErase := rfl
theorem test_decode_opcLscRefresh : decodes .jtag [0x79#8] .opcLscRefresh := rfl
theorem test_decode_opcPreconf : decodes .jtag [0x1C#8] .opcPreconf := rfl
theorem test_decode_opcLscInitAddress : decodes .jtag [0x46#8] .opcLscInitAddress := rfl
theorem test_decode_opcLscEnterBackgroundSpi :
    decodes .jtag [0x3A#8] .opcLscEnterBackgroundSpi := rfl
theorem test_decode_opcVerifyId : decodes .jtag [0xE2#8] .opcVerifyId := rfl
theorem test_decode_opcLscBitstreamBurst :
    decodes .jtag [0x7A#8, 0xDE#8, 0xAD#8] (.opcLscBitstreamBurst [0xDE#8, 0xAD#8]) := rfl
theorem test_decode_opcMetaIr :
    decodes .jtag [0x32#8, 0xDE#8, 0xAD#8] (.opcMetaIr [0xDE#8, 0xAD#8]) := rfl
theorem test_decode_opcMetaDr :
    decodes .jtag [0x38#8, 0xDE#8, 0xAD#8] (.opcMetaDr [0xDE#8, 0xAD#8]) := rfl
/-- `OPC_SPI_DEBUG` has no value (R8); at 0x40 its word is this. -/
theorem test_decode_opcSpiDebug :
    decode { Config.params with opcSpiDebug := 0x40#8 } ⟨.jtag, [0x40#8, 0xA5#8]⟩
      = .ok (.opcSpiDebug [0xA5#8]) := rfl
/-- At the vectors' 0x32 the word is read as `OPC_META_IR` (log 6). -/
theorem test_decode_spiDebug_at_metaIr :
    decode { Config.params with opcSpiDebug := 0x32#8 } ⟨.jtag, [0x32#8, 0xA5#8]⟩
      = .ok (.opcMetaIr [0xA5#8]) := rfl
theorem test_decode_flJedecId :
    decodes .flash [0x9F#8, 0x00#8, 0x00#8, 0x00#8] .flJedecId := rfl
theorem test_decode_flWriteEnable : decodes .flash [0x06#8] .flWriteEnable := rfl
theorem test_decode_flChipErase : decodes .flash [0xC7#8] .flChipErase := rfl
theorem test_decode_flWritePage :
    decodes .flash [0x02#8, 0x12#8, 0x34#8, 0x00#8, 0x5A#8] (.flWritePage 0x123400#24 [0x5A#8]) :=
  rfl
theorem test_decode_flReadPage :
    decodes .flash [0x03#8, 0x12#8, 0x34#8, 0x56#8, 0x00#8, 0x00#8] (.flReadPage 0x123456#24 2) :=
  rfl
theorem test_decode_flReadStatus : decodes .flash [0x05#8, 0x00#8] .flReadStatus := rfl
theorem test_decode_flWriteStatus : decodes .flash [0x01#8, 0x00#8] .flWriteStatus := rfl
theorem test_decode_flReadUid :
    decodes .flash (0x4B#8 :: List.replicate 12 0x00#8) .flReadUid := rfl

/-- RF-1, RF-4 (D.9): a short frame is `BadFrame` whatever its code; 0x00 is no operation. -/
theorem test_decode_short :
    decode Config.params ⟨.host, [0x03#8, 0x00#8, 0x00#8]⟩
      = .error (.badFrame (some 0x03#8)) := rfl
theorem test_decode_unknown :
    decode Config.params ⟨.host, List.replicate 14 0x00#8⟩ = .error (.unknownOp 0x00#8) := rfl
theorem test_decode_plen :
    decode Config.params ⟨.host, [0x01#8, 0, 0, 0, 0, 0, 0, 0, 0, 0, 0, 0, 0, 0x02#8, 0xAA#8]⟩
      = .error (.badFrame (some 0x01#8)) := rfl
theorem test_decode_table_word : decodeTableWord 8 0x20 = some (.configure noFields) := rfl
theorem test_decode_table_word_jtag :
    decodeTableWord 8 0x7A = some (.opcLscBitstreamBurst [0#8]) := rfl
theorem test_decode_table_word_flash : decodeTableWord 8 0xC7 = some .flChipErase := rfl
theorem test_step_runs_table_word :
    step (State.reset.withFetchWord 8 0x20)
      = exec (.configure noFields) (State.reset.withFetchWord 8 0x20) := rfl

/-! ### Vectors of spec/95_test_vectors.md (their ids in the comments) -/

/-- A bit string as the vectors print it, first tick first: `len` digits of the number. -/
def bits (len v : Nat) : List Bool := (List.range len).map fun i => v.testBit (len - 1 - i)

/-- A session in a TAP state, on a link that will answer these bits. -/
def owned (t : TapState) (tdo : List Bool) : State :=
  { State.reset with tapOwner := true, tapState := t, link := tdo.map .bit }

/-- The state a command leads to. -/
def after (i : Instr) (s : State) : State :=
  match exec i s with
  | .next t => t
  | _ => s

def tms (s : State) : List Bool := ticksTms s.trace.reverse

def tdi (s : State) : List Bool :=
  s.trace.reverse.filterMap fun e => match e with
    | .tick _ b _ _ => some b
    | _ => none

/-- Part B's parameters TP. -/
def tp : Params := { Config.params with
  nCmdIdle := 2, nReconfIdle := 2, nCfgIdle := 4, nRegIdle := 1, tPollSleep := 1
  tCtrlTimeout := 10, tLongTimeout := 50, tSettle := 5, indBusy := 1, indIdle := 0
  maxDevices := 4, restartMode := .refresh, spiVariant := .tunneled, opcSpiDebug := 0x32#8 }

/-- What an operation returns, in hand, or nothing where it raises. -/
def result {α : Type} (m : Engine α) (s : State) : Option α :=
  match m s with
  | .ok x _ => some x
  | .error _ _ => none

/-- The state an operation leaves, however it ends. -/
def left {α : Type} (m : Engine α) (s : State) : State :=
  match m s with
  | .ok _ t => t
  | .error _ t => t

/-- What an operation raises. -/
def raised {α : Type} (m : Engine α) (s : State) : Option Raise :=
  match m s with
  | .error (.raised r _) _ => some r
  | _ => none

-- SHDP, D.1
/-- BV-2, BV-3, BV-6, BV-8. -/
theorem test_bitrev_all : bitrevAll ⟨16, 0x0102⟩ = ⟨16, 0x4080⟩ ∧ bitrevAll ⟨3, 0b110⟩ = ⟨3, 0b011⟩
    ∧ bitrevAll ⟨12, 0xA5C⟩ = ⟨12, 0x3A5⟩ ∧ bitrevAll ⟨32, 0x41111043⟩ = ⟨32, 0xC2088882⟩ := by
  decide +kernel
/-- BV-10, BV-14. -/
theorem test_to_wire : toWire [0xFF#8, 0xFF#8, 0xBD#8, 0xB3#8] = ⟨32, 0xCDBDFFFF⟩
    ∧ toWire [0x83#8, 0x01#8, 0x02#8, 0x03#8, 0x04#8] = ⟨40, 0x20C04080C1⟩ := by decide +kernel
/-- BV-16. -/
theorem test_from_wire :
    fromWire ⟨32, 0x10EF0000⟩ = [0x00#8, 0x00#8, 0xF7#8, 0x08#8] := by decide +kernel
/-- BV-18 to BV-21. -/
theorem test_leading_ones : leadingOnes ⟨256, 2 ^ 256 - 1⟩ = none
    ∧ leadingOnes ⟨256, 2 ^ 32 - 1⟩ = some 32 ∧ leadingOnes ⟨256, 0⟩ = some 0
    ∧ leadingOnes ⟨256, 2 ^ 127 - 1⟩ = some 127 := by decide +kernel

-- TAPC, D.2, D.3
/-- Six rows of D.2's path table. -/
theorem test_path : path .reset .shiftIr = bits 5 0b01100 ∧ path .drPause .shiftIr = bits 6 0b111100
    ∧ path .irPause .shiftDr = bits 5 0b11100 ∧ path .idle .drPause = bits 4 0b1010
    ∧ path .exit1Dr .idle = bits 2 0b10 ∧ path .shiftDr .shiftDr = [] := by decide +kernel
/-- RF-9, RF-10. -/
theorem test_acquire_flags :
    (after (.acquire ⟨1#8, 0#32, 0#32, []⟩) State.reset).hostResp.take 4
        = [0x06#8, 0x00#8, 0x00#8, 0x10#8]
      ∧ (after (.acquire ⟨1#8, 0#32, 0#32, []⟩) State.reset).tapOwner = false := by decide +kernel
theorem test_acquire_busy :
    (after (.acquire noFields) (owned .idle [])).hostResp.take 4
      = [0x06#8, 0x00#8, 0x00#8, 0x30#8] := by decide +kernel
/-- TAP-23 after TAP-19. -/
theorem test_release :
    let s := { owned .drPause [] with tapBitbang := true, rafValid := true }
    let t := after (.release noFields) s
    t.tapOwner = false ∧ t.tapBitbang = false ∧ t.rafValid = false ∧ t.tapState = .drPause := by
  decide +kernel
/-- TAP-2. -/
theorem test_tapReset :
    let t := after (.tapReset noFields) (owned .reset (bits 5 0b11111))
    tms t = bits 5 0b11111 ∧ tdi t = bits 5 0 ∧ t.hostResp = List.replicate 12 0#8 := by
  decide +kernel
/-- LF-1. -/
theorem test_tapReset_io :
    let t := after (.tapReset noFields)
      { owned .reset [] with link := [.bit true, .bit true, .io] }
    t.trace.length = 2 ∧ t.hostResp = [1, 0, 0, 8, 0, 0, 0, 0, 0, 0, 0, 0] := by decide +kernel
/-- R290 (3): reset asserted after two ticks: they stay, nothing is answered, the session is gone. -/
theorem test_tapReset_reset :
    let t := after (.tapReset noFields) { owned .idle (bits 5 0b11111) with resets := [2] }
    tms t = bits 2 0b11 ∧ t.hostResp = [] ∧ t.tapOwner = false ∧ t.tapState = .reset
      ∧ t.link.length = 3 ∧ t.resets = [] := by decide +kernel
/-- R290: reset between two commands is a step of its own; the frame on the port goes with it. -/
theorem test_step_reset :
    let s := { owned .drPause [] with resets := [0, 7], hostCmd := some ⟨.host, [0x03#8]⟩ }
    step s = .next { State.reset with resets := [7] } := rfl
/-- TAP-3. -/
theorem test_moveToState :
    let t := after (.moveToState ⟨0#8, 0x0B#32, 0#32, []⟩) (owned .reset (bits 5 0b11111))
    tms t = bits 5 0b01100 ∧ t.tapState = .shiftIr := by decide +kernel
/-- RF-14. -/
theorem test_moveToState_bad :
    (after (.moveToState ⟨0#8, 0x10#32, 0#32, []⟩) (owned .reset [])).hostResp.take 4
      = [0x06#8, 0x00#8, 0x00#8, 0x10#8] := by decide +kernel
/-- TAP-6. -/
theorem test_shiftInstruction :
    let t := after (.shiftInstruction ⟨0x0D#8, 8#32, 0#32, [0xE0#8]⟩)
      (owned .reset (bits 14 0b11111100000001))
    tms t = bits 14 0b01100000000010 ∧ tdi t = bits 14 0b00000000001110
      ∧ t.hostResp = [0, 0, 0, 0, 0, 0, 0, 0, 0, 0, 0, 1, 0x01#8] ∧ t.tapState = .irPause
      ∧ t.ghostIr = some ⟨8, 0xE0⟩ := by decide +kernel
/-- RF-17. -/
theorem test_shiftInstruction_pad :
    (after (.shiftInstruction ⟨0x0D#8, 5#32, 0#32, [0x35#8]⟩) (owned .reset [])).hostResp.take 4
      = [0x06#8, 0x00#8, 0x00#8, 0x10#8] := by decide +kernel
/-- TAP-13: the captured bits 0 1010010 10 give 0x14A. -/
theorem test_shiftData :
    let t := after (.shiftData ⟨0x14#8, 10#32, 0#32, [0x02#8, 0xA5#8]⟩)
      (owned .idle (bits 13 0b1110101001010))
    tms t = bits 13 0b1000000000000 ∧ tdi t = bits 13 0b0001010010101
      ∧ t.hostResp.drop 11 = [0x02#8, 0x01#8, 0x4A#8] ∧ t.tapState = .shiftDr := by decide +kernel
/-- TAP-15: wire order. -/
theorem test_shiftData_wire :
    let t := after (.shiftData ⟨0x31#8, 16#32, 0#32, [0xA5#8, 0x3C#8]⟩)
      (owned .idle (bits 21 0b111010100101001111011))
    tdi t = bits 21 0b000101001010011110000 ∧ t.hostResp.drop 11 = [0x02#8, 0x52#8, 0x9E#8]
      ∧ t.tapState = .idle := by decide +kernel
/-- TAP-11. -/
theorem test_runTest :
    let t := after (.runTest ⟨0x06#8, 3#32, 0#32, []⟩) (owned .idle (bits 7 0b1111111))
    tms t = bits 7 0b1010000 ∧ t.tapState = .drPause := by decide +kernel
/-- RF-25. -/
theorem test_runTest_reset :
    (after (.runTest ⟨0x00#8, 1#32, 0#32, []⟩) (owned .idle [])).hostResp.take 4
      = [0x06#8, 0x00#8, 0x00#8, 0x20#8] := by decide +kernel
/-- TAP-17, the link stuck at 0. -/
theorem test_enumerate_empty :
    let t := left (enumerateCommand tp noFields) (owned .reset (bits 60 0))
    tms t = bits 60 0b111110110000000001011100000000000000000000000000000000010110
      ∧ result (enumerateCommand tp noFields) (owned .reset (bits 60 0)) = some [] := by
  decide +kernel
/-- TAP-18, program P1: one device; the second read answers all ones. -/
theorem test_enumerate_one :
    let tdo := bits 56 0b11111111111000000011111111000010000010001000100010000010
      ++ bits 39 (2 ^ 39 - 1)
    result (enumerateCommand tp noFields) (owned .reset tdo)
        = some [0x41#8, 0x11#8, 0x10#8, 0x43#8]
      ∧ (left (enumerateCommand tp noFields) (owned .reset tdo)).link = [] := by decide +kernel
/-- TAP-19. -/
theorem test_forceBitbang :
    (after (.forceBitbang ⟨1#8, 0#32, 0#32, []⟩) (owned .idle [])).tapBitbang = true := by
  decide +kernel
/-- TAP-21: `OutOfScope`, before the operands are looked at. -/
theorem test_playPattern :
    (after (.playPattern ⟨1#8, 0#32, 0#32, [0x61#8]⟩) (owned .idle [])).hostResp.take 4
      = [0x06#8, 0x00#8, 0x00#8, 0x38#8] := by decide +kernel
/-- TAP-20. -/
theorem test_setIndicator :
    let t := after (.setIndicator ⟨0#8, 7#32, 0#32, []⟩) (owned .idle [])
    t.indPattern = 7 ∧ t.trace = [.indicator 7] := by decide +kernel

-- RAF, D.4
/-- RAF-1 with `dw` = 32: 32 ones and 8 ones come back. -/
def probeTdo : List Bool :=
  bits 24 (2 ^ 24 - 1) ++ (bits 256 ((2 ^ 32 - 1) * 2 ^ 224)) ++ bits 21 (2 ^ 21 - 1)
    ++ (bits 256 ((2 ^ 8 - 1) * 2 ^ 248)) ++ [true]

theorem test_detectWidths :
    let t := left (detectWidthsCommand tp noFields) (owned .reset probeTdo)
    t.rafValid = true ∧ t.rafIw = 8 ∧ t.rafDw = 32 ∧ t.trace.length = 558
      ∧ t.tapState = .drPause := by decide +kernel
/-- RAF-4b: no zero in 256 bits. -/
theorem test_detectWidths_stuck :
    let s := owned .reset (bits 281 (2 ^ 281 - 1))
    raised (detectWidths tp) s = some (.configurationMismatch .badWidth)
      ∧ (left (detectWidths tp) s).rafValid = false
      ∧ (left (detectWidths tp) s).trace.length = 281 := by decide +kernel

/-- A session whose widths are known, as in RAF-5. -/
def widthsKnown (t : TapState) (tdo : List Bool) : State :=
  { owned t tdo with rafValid := true, rafIw := 8, rafDw := 32 }

/-- RAF-5 and program P2, command 2: the last 86 ticks. -/
theorem test_regWrite :
    let t := left (regWriteCommand tp ⟨0#8, 5#32, 0#32, [0xDE#8, 0xAD#8, 0xBE#8, 0xEF#8]⟩)
      (widthsKnown .drPause (bits 86 (2 ^ 86 - 1)))
    tdi t = bits 86 0b00000001001100000000101000010000000000111000000001111011101111101101101010111101100000
      ∧ t.tapState = .idle := by decide +kernel
/-- RAF-6, program P2, command 3. -/
theorem test_regRead :
    let tdo := bits 84 0b111110000000111111101000011111111100000001111111111011101111101101101010111101111111
    let t := left (regReadCommand tp ⟨0#8, 5#32, 0#32, []⟩) (widthsKnown .idle tdo)
    result (regReadCommand tp ⟨0#8, 5#32, 0#32, []⟩) (widthsKnown .idle tdo)
        = some [0xDE#8, 0xAD#8, 0xBE#8, 0xEF#8]
      ∧ tms t = bits 84 0b110000000001011100000000010111100000000010111000000000000000000000000000000000101100
    := by decide +kernel
/-- RAF-10. -/
theorem test_regRead_badAddress :
    (after (.regRead ⟨0#8, 0x80#32, 0#32, []⟩) (widthsKnown .idle [])).hostResp.take 4
      = [0x06#8, 0x00#8, 0x00#8, 0x40#8] := by decide +kernel
/-- RAF-12. -/
theorem test_regWrite_short :
    (after (.regWrite ⟨0#8, 5#32, 0#32, [0xBE#8, 0xEF#8]⟩) (widthsKnown .idle [])).hostResp.take 4
      = [0x06#8, 0x00#8, 0x00#8, 0x10#8] := by decide +kernel
/-- RAF-8: without a payload the value is 0. -/
theorem test_regTransaction :
    let s := widthsKnown .idle (bits 84 0)
    result (regTransactionCommand tp ⟨0#8, 5#32, 0#32, []⟩) s = some [0#8, 0#8, 0#8, 0#8]
      ∧ (left (regTransactionCommand tp ⟨0#8, 5#32, 0#32, []⟩) s).trace.length = 84 := by
  decide +kernel

-- CFGSEQ, D.5, D.6
/-- Table CFG-V, rows 2, 4, 6, 8, 9, 10: what is raised. -/
theorem test_validateStatus_raises :
    raised (validateStatus tp 0x00000000#32 ⟨true, false, false⟩) State.reset
        = some (.protocolViolation .doneNotSet 0 0x00000000#32)
      ∧ raised (validateStatus tp 0x00000100#32 ⟨true, true, false⟩) State.reset
        = some (.protocolViolation .iscNotSet 0 0x00000100#32)
      ∧ raised (validateStatus tp 0x08002000#32 ⟨false, false, false⟩) State.reset
        = some (.protocolViolation .fail 0 0x08002000#32)
      ∧ raised (validateStatus tp 0x10000000#32 ⟨false, false, false⟩) State.reset
        = some (.protocolViolation .invalidCommand 0 0x10000000#32)
      ∧ raised (validateStatus tp 0x01800000#32 ⟨true, false, false⟩) State.reset
        = some (.protocolViolation (.errCode 3) 3 0x01800000#32) := by decide +kernel
/-- Table CFG-V, rows 5, 12, 13, 14: the warnings. -/
theorem test_validateStatus_warns :
    (left (validateStatus tp 0x00000300#32 ⟨true, true, false⟩) State.reset).trace = []
      ∧ (left (validateStatus tp 0x00400100#32 ⟨true, false, false⟩) State.reset).trace
        = [.warn (.spiFail 0x00400100#32)]
      ∧ raised (validateStatus tp 0x00001100#32 ⟨true, false, false⟩) State.reset = none
      ∧ (left (validateStatus tp 0x1A802000#32 ⟨true, true, true⟩) State.reset).trace.reverse
        = [Violation.fail, .idError, .invalidCommand, .errCode 5, .doneNotSet, .iscNotSet].map
            fun v => .warn (.statusViolation v 0x1A802000#32) := by decide +kernel
/-- CFG-M1. -/
theorem test_execCommand :
    let t := left (execCommand tp 0xC6#8 (some ⟨8, 0⟩) 2 .idle none) (owned .idle (bits 32 0))
    tms t = bits 32 0b11000000000101110000000001011000
      ∧ tdi t = bits 32 0b00000110001100000000000000000000 := by decide +kernel
/-- CFG-M2: the status word 0x300 of phase 8 (CFG-1). -/
theorem test_opcLscReadStatus :
    let t := after .opcLscReadStatus
      (owned .drPause (bits 54 0b111111100000001111110000000011000000000000000000000011))
    tms t = bits 54 0b111100000000010111000000000000000000000000000000000110
      ∧ t.hostResp.drop 12 = [0x00#8, 0x00#8, 0x03#8, 0x00#8] := by decide +kernel
/-- CFG-M5. -/
theorem test_enterBackgroundSpi :
    let t := left (enterBackgroundSpi tp) (owned .idle (bits 40 0))
    tms t = bits 40 0b1100000000010111000000000000000001011000
      ∧ tdi t = bits 40 0b0000010111000000000111111100010110000000 ∧ t.cfgBgspi = true := by
  decide +kernel
/-- CFG-M6. -/
theorem test_triggerReconfiguration :
    let t := left (triggerReconfigurationCommand tp noFields) (owned .idle (bits 20 0))
    tms t = bits 20 0b11000000000101100000 ∧ tdi t = bits 20 0b00001001111000000000 := by
  decide +kernel
/-- CFG-4: a link stuck at 1: the id is all ones. -/
theorem test_configure_noDevice :
    let s := owned .reset (bits 53 (2 ^ 53 - 1))
    let m := configureCommand tp ⟨0#8, 0#32, 0#32, [0xFF#8]⟩
    raised m s = some (.configurationMismatch .noDevice)
      ∧ (left m s).trace.length = 55 ∧ (left m s).trace.head? = some (.indicator 0)
      ∧ (left m s).cfgActive = false ∧ (left m s).tapState = .idle := by decide +kernel
/-- CFG-5. -/
theorem test_configure_empty :
    let t := after (.configure noFields) (owned .idle [])
    t.hostResp.take 4 = [0x06#8, 0x00#8, 0x00#8, 0x18#8] ∧ t.trace = [] := by decide +kernel
/-- CFG-9's first phase: `RESTART` from RESET, 19 ticks, then the settle delay; here the link dies
after it, and the teardown, in IDLE with ISC not active, makes no tick. -/
theorem test_unconfigure_restart :
    let s := { owned .reset (bits 19 0) with link := (bits 19 0).map .bit ++ [.io] }
    let t := left (unconfigureCommand tp noFields) s
    tms t = bits 19 0b0110000000001011000
      ∧ t.trace.head? = some (.delay 5)
      ∧ raised (unconfigureCommand tp noFields) s = some (.transportError .linkIo)
      ∧ t.cfgActive = false := by decide +kernel

-- SPIB, D.7, D.8
/-- FL-1. -/
theorem test_readFlashId :
    let tdo := bits 40 0 ++ bits 37 0b1111111111111101111010000000001100011
    let t := left (readFlashIdCommand tp noFields) (owned .idle tdo)
    result (readFlashIdCommand tp noFields) (owned .idle tdo)
        = some [0xEF#8, 0x00#8, 0xEF#8, 0x40#8, 0x18#8]
      ∧ (tdi t).drop 40 = bits 37 0b0001001111100000000000000000000000000 ∧ t.cfgBgspi = false := by
  decide +kernel
/-- FL-2. -/
theorem test_readFlashUid :
    let tdo := bits 43 0 ++ bits 104 0xFFFFFFFFFFD164300A11223344 ++ bits 2 0
    result (readFlashUidCommand tp noFields) (owned .idle tdo)
      = some [0xD1#8, 0x64#8, 0x30#8, 0x0A#8, 0x11#8, 0x22#8, 0x33#8, 0x44#8] := by decide +kernel
/-- FL-3, the flash ready at the first poll each time: write enable, status, erase, status. -/
theorem test_eraseFlash :
    let status (b : Nat) := bits 3 0 ++ bits 16 (0xFF00 + b) ++ bits 2 0
    let s := { owned .idle (bits 53 0 ++ status 0x1E ++ bits 13 0 ++ status 0x1C) with
      clock := [0, 0] }
    let t := left (eraseFlashCommand tp noFields) s
    raised (eraseFlashCommand tp noFields) s = none ∧ t.link = []
      ∧ ((tdi t).drop 74).take 13 = bits 13 0b0001100011100 ∧ t.tapState = .idle := by
  decide +kernel
/-- FL-9: no page; the trigger still runs. -/
theorem test_flash_empty :
    let t := left (flashCommand tp noFields) (owned .idle (bits 60 0))
    tms t = bits 60 0b110000000001011100000000000000000101100011000000000101100000
      ∧ tdi t = bits 60 0b000001011100000000011111110001011000000000001001111000000000 := by
  decide +kernel
/-- FL-10: `Misaligned` before `BadAddress`. -/
theorem test_flash_misaligned :
    (after (.flash ⟨0#8, 0xFFFFFF#32, 0#32, [0#8, 0#8]⟩) (owned .idle [])).hostResp.take 4
      = [0x06#8, 0x00#8, 0x00#8, 0x50#8] := by decide +kernel
/-- FL-7: the echo bytes are dropped. -/
theorem test_readFlash :
    let tdo := bits 43 0 ++ bits 56 0xFFFFFFFFF5FC03 ++ bits 2 0
    result (readFlashCommand tp ⟨0#8, 0xFE#32, 3#32, []⟩) (owned .idle tdo)
      = some [0xF5#8, 0xFC#8, 0x03#8] := by decide +kernel
/-- FL-10, a read past the end. -/
theorem test_readFlash_badAddress :
    (after (.readFlash ⟨0#8, 0xFFFFFF#32, 2#32, []⟩) (owned .idle [])).hostResp.take 4
      = [0x06#8, 0x00#8, 0x00#8, 0x40#8] := by decide +kernel
/-- SD-1: bit-bang during the data shift only. -/
theorem test_spiTransfer :
    let s := owned .idle (bits 28 0b1111100000001111110000000011)
    let t := left (spiTransferCommand tp ⟨0#8, 0#32, 0#32, [0xA5#8]⟩) s
    result (spiTransferCommand tp ⟨0#8, 0#32, 0#32, [0xA5#8]⟩) s = some [0x00#8]
      ∧ tms t = bits 28 0b1100000000010111000000000110
      ∧ tdi t = bits 28 0b0000010011000000001010010100
      ∧ (t.trace.reverse.map fun e => match e with
          | .tick _ _ _ b => b
          | _ => false) = bits 28 0b0000000000000111111111111111
      ∧ t.tapBitbang = false := by decide +kernel
/-- SD-10: the cleanup block runs after a link fault. -/
theorem test_spiTransfer_io :
    let s := { owned .idle [] with link := (bits 19 0).map .bit ++ [.io] }
    let t := left (spiTransferCommand tp ⟨0#8, 0#32, 0#32, [0xA5#8, 0x5A#8]⟩) s
    t.trace.length = 19 ∧ t.tapState = .shiftDr ∧ t.tapBitbang = false := by decide +kernel
/-- SD-2. -/
theorem test_spiRegWrite :
    let t := left (spiRegWriteCommand tp ⟨0#8, 3#32, 0x01020304#32, []⟩) (owned .idle (bits 60 0))
    tdi t = bits 60 0b000001001100000000100000110000000100000010000000110000010000 := by
  decide +kernel
/-- SD-3. -/
theorem test_spiRegRead :
    let tdo := bits 18 0 ++ bits 40 0x0001020304 ++ bits 2 0
    result (spiRegReadCommand tp ⟨0#8, 3#32, 0#32, []⟩) (owned .idle tdo)
      = some [0x01#8, 0x02#8, 0x03#8, 0x04#8] := by decide +kernel
/-- SD-6. -/
theorem test_spiRegTransaction_badAddress :
    (after (.spiRegTransaction ⟨0#8, 128#32, 5#32, []⟩) (owned .idle [])).hostResp.take 4
      = [0x06#8, 0x00#8, 0x00#8, 0x40#8] := by decide +kernel

-- Rows of the wire tables (log 3 to log 5), by the shifts of D.3, D.4 and D.7
/-- TAP-7's ticks, with `OPC_VERIFY_ID`: 0xE2, bit 0 first. -/
theorem test_opcVerifyId :
    let t := after .opcVerifyId (owned .idle (bits 13 0b1111100000001))
    tms t = bits 13 0b1100000000010 ∧ tdi t = bits 13 0b0000010001110
      ∧ t.hostResp.drop 11 = [0x01#8, 0x01#8] := by decide +kernel
/-- RAF-5's first two segments. -/
theorem test_opcMetaIr :
    let t := after (.opcMetaIr [0x85#8]) (owned .drPause (bits 29 0))
    tms t = bits 29 0b11110000000001011100000000010
      ∧ tdi t = bits 29 0b00000001001100000000101000010 := by decide +kernel
/-- FL-1's transaction, and FL-7's. -/
theorem test_flJedecId :
    (after .flJedecId
      (owned .idle (bits 37 0b1111111111111101111010000000001100011))).hostResp.drop 12
      = [0xEF#8, 0x00#8, 0xEF#8, 0x40#8, 0x18#8] := by decide +kernel
theorem test_flReadPage :
    (after (.flReadPage 0xFE#24 3)
      (owned .idle (bits 3 0 ++ bits 56 0xFFFFFFFFF5FC03 ++ bits 2 0))).hostResp.drop 12
      = [0xF5#8, 0xFC#8, 0x03#8] := by decide +kernel
/-- FL-5's second write, `02 00 02 00 5A` (BV-15's form). -/
theorem test_flWritePage :
    tdi (after (.flWritePage 0x000200#24 [0x5A#8]) (owned .idle (bits 45 0)))
      = bits 3 0 ++ bits 40 0x020002005A ++ bits 2 0 := by decide +kernel
/-- FL-3's status read. -/
theorem test_flReadStatus :
    (after .flReadStatus (owned .idle (bits 3 0 ++ bits 16 0xFF1E ++ bits 2 0))).hostResp.drop 11
      = [0x01#8, 0x1E#8] := by decide +kernel

/-! ### Witnesses: for each obligation with hypotheses, states and operands that meet them -/

/-- The link bits of a register shift that captures `word`. -/
def scan (source shiftState : TapState) (word : List Bool) (stateAfter : TapState) : Scan :=
  ⟨List.replicate (path source shiftState).length true, word,
    List.replicate (path (shiftExit shiftState stateAfter) stateAfter).length true⟩

theorem scan_fits (source shiftState stateAfter : TapState) {word : List Bool} {len : Nat}
    (h0 : 0 < len) (h : word.length = len) :
    (scan source shiftState word stateAfter).fits source shiftState len stateAfter :=
  ⟨h0, by simp [scan], h, by simp [scan]⟩

/-- An 8-bit instruction shift to IRPAUSE. -/
def irScan (source : TapState) : Scan := scan source .shiftIr (bits 8 0x80) .irPause

theorem irScan_fits (source : TapState) : (irScan source).fits source .shiftIr 8 .irPause :=
  scan_fits _ _ _ (by decide) rfl

/-- A word of a data register, bit 0 first. -/
def word (len v : Nat) : List Bool := bitsOf ⟨len, v⟩

theorem word_length (len v : Nat) : (word len v).length = len := by simp [word]

/-- The bits of a move and of run-test ticks after it. -/
def runBits (source target : TapState) (cycles : Nat) : List Bool :=
  List.replicate ((path source target).length + cycles) true

theorem runBits_length (source target : TapState) (cycles : Nat) :
    (runBits source target cycles).length = (path source target).length + cycles := by
  simp [runBits]

/-- A session in a TAP state, on a link that holds a plan's bits. -/
def planned (t : TapState) (plan : List Act) : State := owned t (planTdo plan)

theorem planned_ready {t : TapState} {plan : List Act} (h : planFits plan t) :
    (planned t plan).tapOwner = true ∧ Ready plan (planned t plan) :=
  ⟨rfl, ready_of_fits rfl h rfl⟩

/-- The TAP state a plan leads to. -/
def planAfter (plan : List Act) (t : TapState) : TapState := plan.foldl (fun t a => a.tapAfter t) t

/-- A plan has its bits from one TAP state on, and leads to another. -/
def Runs (plan : List Act) (t u : TapState) : Prop := planFits plan t ∧ planAfter plan t = u

theorem Runs.nil (t : TapState) : Runs [] t t := ⟨trivial, rfl⟩

theorem Runs.cons {a : Act} {plan : List Act} {t u : TapState} (h : a.fits t)
    (h' : Runs plan (a.tapAfter t) u) : Runs (a :: plan) t u := ⟨⟨h, h'.1⟩, h'.2⟩

theorem Runs.one {a : Act} {t : TapState} (h : a.fits t) : Runs [a] t (a.tapAfter t) :=
  .cons h (.nil _)

theorem Runs.append {p q : List Act} {t u v : TapState} (h : Runs p t u) (h' : Runs q u v) :
    Runs (p ++ q) t v := by
  induction p generalizing t with
  | nil => obtain rfl : t = u := h.2; exact h'
  | cons a p ih =>
    have := ih (t := a.tapAfter t) ⟨h.1.2, h.2⟩
    exact .cons h.1.1 this

/-- A run-test that starts where it runs. -/
theorem run_fits {t u : TapState} (h : isRunState u = true) (n : Nat) :
    (Act.run n u (runBits t u n)).fits t := ⟨h, runBits_length _ _ _⟩

/-- The bits of a status or identity read: an instruction, then 32 bits to IDLE. -/
def readScans (source : TapState) (v : Nat) : ScanPair :=
  ⟨irScan source, scan .irPause .shiftDr (word 32 v) .idle⟩

theorem readScans_fits (opc : Nat) (source : TapState) (v : Nat) :
    Runs [.instruction opc 8 .irPause (readScans source v).instruction,
      .data (ones 32) .idle (readScans source v).data] source .idle :=
  .cons (irScan_fits _) (.one (scan_fits _ _ _ (by decide) (word_length _ _)))

variable {P : Params}

theorem statusPlan_runs (source : TapState) (v : Nat) :
    Runs (statusPlan P (readScans source v)) source .idle := .cons trivial (readScans_fits _ _ _)

theorem warns_run {l : List Act} {t : TapState} (h : ∀ a ∈ l, ∃ w, a = .warn w) : Runs l t t := by
  induction l with
  | nil => exact .nil t
  | cons a l ih =>
    obtain ⟨w, rfl⟩ := h a (by simp)
    exact .cons trivial (ih fun a ha => h a (by simp [ha]))

theorem checkPlan_runs (check : StatusCheck) (source : TapState) (v : Nat) :
    Runs (checkPlan P check (readScans source v)) source .idle :=
  (statusPlan_runs _ _).append (warns_run fun _ h => validatePlan_warns h)

/-- The bits of an ECP5 command whose run-test is in IDLE. -/
def commandScans (source : TapState) (operandLen idle : Nat) : CommandScans :=
  ⟨irScan source, scan .irPause .shiftDr (List.replicate operandLen true) .drPause,
    runBits (if operandLen = 0 then .irPause else .drPause) .idle idle⟩

theorem commandPlan_runs {opc : Byte} {v : BitVector} (hv : 0 < v.len) {idle : Nat}
    {source : TapState} :
    Runs (commandPlan opc (some v) idle .idle (commandScans source v.len idle)) source .idle := by
  have hr : (commandScans source v.len idle).idle = runBits .drPause .idle idle := by
    simp [commandScans, Nat.pos_iff_ne_zero.mp hv]
  refine .cons trivial (.cons (irScan_fits _) (.cons (scan_fits _ _ _ hv (by simp)) ?_))
  rw [hr]
  exact .one (run_fits rfl _)

theorem plainCommand_runs {opc : Byte} {idle : Nat} {source : TapState} :
    Runs (commandPlan opc none idle .idle (commandScans source 0 idle)) source .idle :=
  .cons trivial (.cons (irScan_fits _) (.one (run_fits rfl _)))

theorem restartPlan_runs : Runs (restartPlan P (commandScans .idle 0 P.nCmdIdle)) .idle .idle := by
  unfold restartPlan
  split
  · exact plainCommand_runs
  · exact .one trivial

theorem sessionEnd_runs (phase : Nat) : Runs (sessionEndPlan phase) .idle .idle :=
  .cons trivial (.cons rfl (.one trivial))

/-- The bits of a background-SPI transaction from IDLE. -/
def spiScan (received : List Byte) : Scan := scan .idle .shiftDr (bitsOf (toWire received)) .idle

theorem transferPlan_runs {out received : List Byte} (h0 : out ≠ [])
    (h : received.length = out.length) :
    Runs (transferPlan out (spiScan received)) .idle .idle := by
  have hp : 0 < out.length := List.length_pos_iff.mpr h0
  exact .cons trivial (.one (scan_fits _ _ _ (by rw [toWire_len]; omega) (by simp [h])))

/-- A session in a TAP state meets the hypotheses of a statement about a plan: it is open, and the
link holds the plan's bits. -/
def Meets (t : TapState) (plan : List Act) : Prop :=
  (planned t plan).tapOwner = true ∧ Ready plan (planned t plan)

theorem Meets.of {plan : List Act} {t u : TapState} (h : Runs plan t u) : Meets t plan :=
  planned_ready h.1

-- Reset, the command cycle, encodings
/-- Reset due at once; and a command of one primitive step, met before it and after it. -/
theorem witness_ResetLeavesTableValues :
    { owned .drPause [] with resets := 0 :: [7] }.resets = 0 :: [7]
    ∧ (owned .idle []).resets = []
    ∧ (after (.setIndicator noFields) (withResets [0] (owned .idle []))).hostResp = []
    ∧ (after (.setIndicator noFields) (withResets [1] (owned .idle []))).hostResp
        = List.replicate 12 0#8 := by decide +kernel

/-- A machine right after reset with a frame on its port. -/
def waiting (bytes : List Byte) : State := present ⟨.host, bytes⟩ State.reset

theorem witness_StepKeepsInvariant : BetweenCommands (waiting (0x01#8 :: List.replicate 13 0#8))
    ∧ ∃ t, step (waiting (0x01#8 :: List.replicate 13 0#8)) = .next t ∧ t.tapOwner = true := by
  refine ⟨⟨by decide, by decide, by decide, by decide, ?_⟩, _, rfl, rfl⟩
  intro frame h; cases h; rfl

theorem witness_StepRunsDecodedCommand :
    (resetDue (waiting (0x40#8 :: headerTail)) = false
      ∧ (waiting (0x40#8 :: headerTail)).hostCmd = some ⟨.host, 0x40#8 :: headerTail⟩
      ∧ decode Config.params ⟨.host, 0x40#8 :: headerTail⟩ = .ok (.spiTransfer headerFields))
    ∧ resetDue { State.reset with resets := [1] } = false ∧ State.reset.hostCmd = none :=
  ⟨⟨rfl, rfl, rfl⟩, rfl, rfl⟩

theorem witness_DecodeOfEncode :
    (WellFormed (.opcSpiDebug [0xA5#8]) = true
      ∧ 0x40#8 ∉ fixedJtagOpcodes Config.params ∧ 0x40#8 ∉ dataJtagOpcodes Config.params)
    ∧ WellFormed (.flReadPage 0xFFFFFF#24 256) = true ∧ WellFormed (.release headerFields) = true := by
  decide +kernel

theorem witness_EncodeOfDecodedHostFrame :
    decode Config.params ⟨.host, 0x34#8 :: headerTail⟩ = .ok (.readFlash headerFields) := rfl

theorem witness_HostFrameLayout :
    (([] : List Byte).length < 2 ^ 32 ∧ hostOperation 0x43#8 = some .spiRegWrite)
    ∧ resetDue (waiting []) = false
    ∧ (waiting []).hostCmd = some ⟨.host, []⟩ ∧ ([] : List Byte).length < 14
    ∧ (List.replicate 13 0x01#8).length < 14
    ∧ (0x01#8 :: List.replicate 14 0#8).length
        ≠ 14 + fromBe (((0x01#8 :: List.replicate 14 0#8).drop 10).take 4) := by
  refine ⟨⟨by decide, rfl⟩, rfl, rfl, by decide, by decide, by decide⟩

theorem witness_UnknownOperationRefused :
    0x44#8 ∉ [0x01#8, 0x02#8, 0x03#8, 0x04#8, 0x05#8, 0x06#8, 0x07#8, 0x08#8, 0x09#8, 0x0A#8, 0x0B#8,
      0x10#8, 0x11#8, 0x12#8, 0x13#8, 0x20#8, 0x21#8, 0x22#8, 0x30#8, 0x31#8, 0x32#8, 0x33#8, 0x34#8,
      0x40#8, 0x41#8, 0x42#8, 0x43#8]
    ∧ resetDue (waiting (0x44#8 :: headerTail)) = false
    ∧ (waiting (0x44#8 :: headerTail)).hostCmd = some ⟨.host, 0x44#8 :: headerTail⟩
    ∧ 13 ≤ headerTail.length
    ∧ headerTail.length = 13 + fromBe ((headerTail.drop 9).take 4) := by
  refine ⟨by decide, rfl, rfl, by decide, by decide⟩

theorem witness_ClosedSessionRefused :
    State.reset.tapOwner = false ∧ ∀ f, Instr.release noFields ≠ .acquire f := ⟨rfl, nofun⟩

/-- One operation a field: flags, `a`, `b`, the payload; and `ACQUIRE` with the session closed. Then
RF-18 and RF-23, a byte too many and one too few; RF-17, a pad bit; and a length of 0 with a payload. -/
theorem witness_UndefinedFieldsRefused :
    (∃ u, fieldUse (.runTest ⟨0x16#8, 0, 0, []⟩) = some (⟨0x16#8, 0, 0, []⟩, u)
      ∧ u.violatedBy ⟨0x16#8, 0, 0, []⟩)
    ∧ (∃ u, fieldUse (.moveToState ⟨0, 16#32, 0, []⟩) = some (⟨0, 16#32, 0, []⟩, u)
      ∧ u.violatedBy ⟨0, 16#32, 0, []⟩)
    ∧ (∃ u, fieldUse (.spiRegRead ⟨0, 0, 1#32, []⟩) = some (⟨0, 0, 1#32, []⟩, u)
      ∧ u.violatedBy ⟨0, 0, 1#32, []⟩)
    ∧ (∃ u, fieldUse (.tapReset ⟨0, 0, 0, [0#8]⟩) = some (⟨0, 0, 0, [0#8]⟩, u)
      ∧ u.violatedBy ⟨0, 0, 0, [0#8]⟩)
    ∧ (∃ u, fieldUse (.acquire ⟨1#8, 0, 0, []⟩) = some (⟨1#8, 0, 0, []⟩, u)
      ∧ u.violatedBy ⟨1#8, 0, 0, []⟩)
    ∧ (owned .idle []).tapOwner = true ∧ State.reset.tapOwner = false
    ∧ [0x12#8, 0x34#8].length ≠ ((8#32).toNat + 7) / 8
    ∧ [0xA5#8].length ≠ ((16#32).toNat + 7) / 8
    ∧ 2 ^ (5#32).toNat ≤ fromBe [0x35#8] ∧ [0#8].length ≠ ((0#32).toNat + 7) / 8 := by
  refine ⟨⟨_, rfl, .inl (by decide)⟩, ⟨_, rfl, .inr (.inl (by decide))⟩,
    ⟨_, rfl, .inr (.inr (.inl (by decide)))⟩, ⟨_, rfl, .inr (.inr (.inr (by decide)))⟩,
    ⟨_, rfl, .inl (by decide)⟩, rfl, rfl, by decide⟩

/-- The least length and the greatest; and RF-21: twelve bits in two bytes. -/
theorem witness_BadLengthsRefused :
    (owned .idle []).tapOwner = true ∧ (1#32).toNat % 8 ≠ 0 ∧ (0xFFFFFFFF#32).toNat % 8 ≠ 0
    ∧ (12#32).toNat % 8 ≠ 0 ∧ [0xA5#8, 0x30#8].length = ((12#32).toNat + 7) / 8 := by
  decide

-- SHDP
theorem witness_ReversalLaws : fits ⟨16, 0xFFFF⟩ ∧ (⟨16, 0xFFFF⟩ : BitVector).len % 8 = 0
    ∧ fits ⟨0, 0⟩ ∧ fits ⟨3, 7⟩ := by
  unfold fits; decide

theorem witness_WireOrderIsBytesFirst :
    (7 < 8 ∧ 1 < [0xA5#8, 0x3C#8].length) ∧ (bits 16 0xA53C).length % 8 = 0
    ∧ 1 < (fromWire (ofBits (bits 16 0xA53C))).length := by decide +kernel

theorem witness_BytesConcatenationSlicing :
    (fits ⟨16, 0x0102⟩ ∧ (⟨16, 0x0102⟩ : BitVector).len % 8 = 0)
    ∧ fits ⟨2, 3⟩ ∧ 0 < 1 ∧ 1 < (⟨2, 3⟩ : BitVector).len := by
  unfold fits; decide

-- TAPC
theorem witness_PathIsTheShortestWalk :
    walkState .drPause [true, true, true, true, false, false] = .shiftIr
    ∧ [true, true, true, true, false, false].length = (path .drPause .shiftIr).length := by
  decide +kernel

theorem witness_AcquireOpensSession :
    (owned .idle []).tapOwner = true ∧ State.reset.tapOwner = false := ⟨rfl, rfl⟩

theorem witness_ReleaseClosesSession :
    (owned .idle []).tapOwner = true ∧ State.reset.tapOwner = false := ⟨rfl, rfl⟩

theorem witness_MoveToStateWalks : Meets .shiftDr [.move .shiftIr (bits 6 0)] := .of (.one rfl)

theorem witness_TapResetTicksFiveTimes :
    (owned .shiftIr (bits 5 0)).tapOwner = true
      ∧ Supplies (owned .shiftIr (bits 5 0)) [false, false, false, false, false] :=
  ⟨rfl, rfl, [], rfl⟩

/-- The link bits before a fault, then the fault. -/
def faulting (tdo : List Bool) (fault : LinkAnswer) (rest : List LinkAnswer) : State :=
  { owned .idle [] with link := tdo.map .bit ++ fault :: rest }

/-- Each fault, before the first tick or before the last; and reset there. -/
theorem witness_LinkFaultStopsTapReset :
    (faulting [] .notSupported []).link = [].map .bit ++ .notSupported :: []
    ∧ (faulting [] .io [.io]).link = [].map .bit ++ .io :: [.io]
    ∧ (faulting (bits 4 0) .timeout []).link = (bits 4 0).map .bit ++ .timeout :: []
    ∧ (faulting (bits 4 0) .malformed []).link = (bits 4 0).map .bit ++ .malformed :: []
    ∧ (faulting [] .io []).tapOwner = true ∧ (faulting [] .io []).resets = []
    ∧ (bits 4 0).length < 5
    ∧ (withResets [0] (owned .idle [])).resets = ([] : List Bool).length :: []
    ∧ (withResets [4, 0] (owned .idle (bits 5 0))).resets = (bits 4 0).length :: [0]
    ∧ (withResets [4, 0] (owned .idle (bits 5 0))).link = (bits 4 0).map .bit ++ [.bit false] :=
  ⟨rfl, rfl, rfl, rfl, rfl, rfl, by decide, rfl, rfl, rfl⟩

theorem witness_ShiftInstructionShifts :
    (1 < 2 ^ 1 ∧ Meets .idle [.instruction 1 1 .shiftIr (scan .idle .shiftIr [true] .shiftIr)])
    ∧ 0xE0 < 2 ^ 8 ∧ Meets .reset [.instruction 0xE0 8 .irPause (irScan .reset)] :=
  ⟨⟨by decide, .of (.one (scan_fits _ _ _ (by decide) rfl))⟩, by decide, .of (.one (irScan_fits _))⟩

/-- One bit in native order, one byte in wire order. -/
theorem witness_ShiftDataShifts :
    (1 < 2 ^ 1 ∧ Meets .shiftDr [.data ⟨1, 1⟩ .shiftDr (scan .shiftDr .shiftDr [false] .shiftDr)])
    ∧ Meets .idle [.data (ones 1) .idle (scan .idle .shiftDr [false] .idle)]
    ∧ Meets .idle [.data (toWire [0x80#8]) .reset (scan .idle .shiftDr (bits 8 0) .reset)]
    ∧ Meets .drPause [.data (ones (8 * 1)) .drPause (scan .drPause .shiftDr (bits 8 0) .drPause)] :=
  ⟨⟨by decide, .of (.one (scan_fits _ _ _ (by decide) rfl))⟩,
    .of (.one (scan_fits _ _ _ (by decide) rfl)), .of (.one (scan_fits _ _ _ (by decide) rfl)),
    .of (.one (scan_fits _ _ _ (by decide) rfl))⟩

/-- No cycle and the most cycles; and a state that is no run state. -/
theorem witness_RunTestTicks :
    Meets .irPause [.run (0#32).toNat .irPause (runBits .irPause .irPause 0)]
    ∧ Meets .reset [.run (BitVec.toNat 0xFFFFFFFF#32) .idle
        (runBits .reset .idle (BitVec.toNat 0xFFFFFFFF#32))]
    ∧ TapState.shiftDr ≠ .idle ∧ TapState.shiftDr ≠ .drPause ∧ TapState.shiftDr ≠ .irPause :=
  ⟨.of (.one (run_fits rfl _)), .of (.one (run_fits rfl _)), by decide, by decide, by decide⟩

/-- One read of an enumeration: the first from IRPAUSE, the others from DRPAUSE. -/
def idScan (source : TapState) (v : Nat) : Scan := scan source .shiftDr (word 32 v) .drPause

theorem idScans_run (n v : Nat) :
    Runs (enumeratePlan (List.replicate n (idScan .drPause v))) .drPause .drPause := by
  induction n with
  | zero => exact .nil _
  | succ n ih => exact .cons (scan_fits _ _ _ (by decide) (word_length _ _)) ih

theorem idScan_word (source : TapState) (v : Nat) (h : v < 2 ^ 32) :
    (idScan source v).word32 = BitVec.ofNat 32 v := by
  have h' : fits ⟨32, v⟩ := by unfold fits; exact h
  have := congrArg BitVector.val (ofBits_bitsOf h')
  simp only [ofBits] at this
  simp only [idScan, Scan.word32, scan, word, this]

/-- The whole plan of an enumeration from RESET. -/
def chainPlan (words : List Scan) : List Act :=
  .reset (bits 5 0) :: .instruction Config.params.opcReadId.toNat 8 .irPause (irScan .reset)
    :: enumeratePlan words ++ [.move .idle (bits 3 0)]

theorem chainPlan_runs (n v w : Nat) :
    Runs (chainPlan (idScan .irPause w :: List.replicate n (idScan .drPause v))) .reset .idle := by
  have first : Runs (enumeratePlan (idScan .irPause w :: List.replicate n (idScan .drPause v)))
      .irPause .drPause :=
    .cons (scan_fits _ _ _ (by decide) (word_length _ _)) (idScans_run n v)
  generalize idScan .irPause w :: List.replicate n (idScan .drPause v) = words at first
  exact .append (.cons rfl (.cons (irScan_fits _) first)) (.one rfl)

/-- An empty chain, and one that fills `P_MAX_DEVICES`, whatever that is. -/
theorem witness_EnumerateListsTheChain :
    ([] : List Scan).length < Config.params.maxDevices ∧ (idScan .irPause 0).word32 = 0#32
    ∧ Ready (chainPlan ([] ++ [idScan .irPause 0])) (planned .reset (chainPlan ([] ++ [idScan .irPause 0])))
    ∧ (idScan .irPause 1 :: List.replicate Config.maxDevicesLessOne (idScan .drPause 1)).length
        = Config.params.maxDevices
    ∧ (∀ w ∈ idScan .irPause 1 :: List.replicate Config.maxDevicesLessOne (idScan .drPause 1),
        w.word32 ≠ 0#32 ∧ w.word32 ≠ 0xFFFFFFFF#32)
    ∧ Ready (chainPlan
        (idScan .irPause 1 :: List.replicate Config.maxDevicesLessOne (idScan .drPause 1)))
        (planned .reset (chainPlan
          (idScan .irPause 1 :: List.replicate Config.maxDevicesLessOne (idScan .drPause 1)))) := by
  refine ⟨Nat.succ_pos _, idScan_word _ _ (by decide), (Meets.of (chainPlan_runs 0 0 0)).2, ?_, ?_,
    (Meets.of (chainPlan_runs _ 1 1)).2⟩
  · rw [List.length_cons, List.length_replicate]; rfl
  · intro w hw
    have : w.word32 = 1#32 := by
      rcases List.mem_cons.mp hw with rfl | hw
      · exact idScan_word _ _ (by decide)
      · rw [List.eq_of_mem_replicate hw]; exact idScan_word _ _ (by decide)
    rw [this]; decide

theorem witness_ModeAndIndicatorCommands :
    (owned .idle []).tapOwner = true ∧ (owned .idle []).resets = [] := ⟨rfl, rfl⟩

-- RAF
/-- The bits of a width probe that finds `width` ones. -/
def probeScans (source : TapState) (captured : Nat) : ScanPair :=
  ⟨irScan source, scan .irPause .shiftDr (word 256 captured) .drPause⟩

theorem probePlan_runs (opc : Byte) (source : TapState) (captured : Nat) :
    Runs (probePlan opc (probeScans source captured)) source .drPause :=
  .cons (irScan_fits _) (.one (scan_fits _ _ _ (by decide) (word_length _ _)))

theorem probeScans_leadingOnes (source : TapState) {captured : Nat} (h : captured < 2 ^ 256) :
    leadingOnes (ofBits (probeScans source captured).data.word) = leadingOnes ⟨256, captured⟩ := by
  have h' : fits ⟨256, captured⟩ := by unfold fits; exact h
  simp only [probeScans, scan, word, ofBits_bitsOf h']

theorem detectPlan_runs (v w iw dw : Nat) :
    Runs (detectPlan Config.params (bits 5 0) (probeScans .reset v) (probeScans .drPause w) iw dw)
      .idle .drPause :=
  ((Runs.append (p := .reset (bits 5 0) :: probePlan Config.params.opcMetaDr (probeScans .reset v))
    (.cons rfl (probePlan_runs _ _ _)) (probePlan_runs _ _ _))).append (.one trivial)

/-- The smallest width and the greatest that 256 bits can show. -/
theorem witness_DetectWidthsMeasuresOnce :
    usableWidth (probeScans .reset (2 ^ 8 - 1)) 8
    ∧ usableWidth (probeScans .drPause (2 ^ 248 - 1)) 248
    ∧ Meets .idle (detectPlan Config.params (bits 5 0) (probeScans .reset (2 ^ 8 - 1))
        (probeScans .drPause (2 ^ 248 - 1)) 248 8)
    ∧ (planned .idle []).rafValid = false ∧ (widthsKnown .idle []).rafValid = true := by
  refine ⟨⟨?_, by decide, by decide⟩, ⟨?_, by decide, by decide⟩, .of (detectPlan_runs _ _ _ _),
    rfl, rfl⟩
  · rw [probeScans_leadingOnes _ (by decide)]; decide +kernel
  · rw [probeScans_leadingOnes _ (by decide)]; decide +kernel

/-- No one found, four of them, and no zero; in the data probe, and in the address probe after a data
width of 8 (RAF-4). -/
theorem witness_UnusableDataWidthRaises :
    (∀ source, ∀ captured ∈ [0, 2 ^ 4 - 1, 2 ^ 256 - 1], ∀ w,
      leadingOnes (ofBits (probeScans source captured).data.word) = some w → w = 0 ∨ w % 8 ≠ 0)
    ∧ Meets .idle (.reset (bits 5 0) :: probePlan Config.params.opcMetaDr (probeScans .reset 0))
    ∧ usableWidth (probeScans .reset (2 ^ 8 - 1)) 8
    ∧ Meets .idle (.reset (bits 5 0)
        :: probePlan Config.params.opcMetaDr (probeScans .reset (2 ^ 8 - 1))
        ++ probePlan Config.params.opcMetaIr (probeScans .drPause (2 ^ 4 - 1)))
    ∧ (planned .idle []).rafValid = false := by
  refine ⟨?_, .of (.cons rfl (probePlan_runs _ _ _)), ⟨?_, by decide, by decide⟩,
    .of (Runs.append (.cons rfl (probePlan_runs _ _ _)) (probePlan_runs _ _ _)), rfl⟩
  swap
  · rw [probeScans_leadingOnes _ (by decide)]; decide +kernel
  intro source captured hc w hw
  have h : ∀ captured ∈ [0, 2 ^ 4 - 1, 2 ^ 256 - 1], captured < 2 ^ 256 ∧
      (leadingOnes ⟨256, captured⟩ = some 0 ∨ leadingOnes ⟨256, captured⟩ = some 4
        ∨ leadingOnes ⟨256, captured⟩ = none) := by decide +kernel
  obtain ⟨h1, h2⟩ := h captured hc
  rw [probeScans_leadingOnes _ h1] at hw
  rcases h2 with h2 | h2 | h2 <;> rw [h2] at hw <;> cases hw <;> decide

/-- The bits of a register transaction with 8-bit words, and its plan. -/
def registerScans (source : TapState) : RegisterScans :=
  ⟨⟨irScan source, scan .irPause .shiftDr (bits 8 0) .drPause⟩,
    ⟨irScan .drPause, scan .irPause .shiftDr (bits 8 0) .drPause⟩,
    runBits .drPause .idle Config.params.nRegIdle⟩

theorem metaPlan_runs (opc : Byte) (v : Nat) (source : TapState) :
    Runs (metaPlan opc ⟨8, v⟩ ⟨irScan source, scan .irPause .shiftDr (bits 8 0) .drPause⟩) source
      .drPause :=
  .cons (irScan_fits _) (.one (scan_fits _ _ _ (Nat.succ_pos 7) rfl))

theorem registerPlan_runs (source : TapState) (address value : Nat) (isWrite : Bool) :
    Runs (registerPlan Config.params 8 8 address isWrite value (registerScans source)) source
      .idle :=
  ((metaPlan_runs _ _ _).append (metaPlan_runs _ _ _)).append (.one (run_fits rfl _))

/-- A session with widths 8 and 8, on a link that holds a transaction's bits. -/
def registerReady (address value : Nat) (isWrite : Bool) : State :=
  { planned .idle (registerPlan Config.params 8 8 address isWrite value (registerScans .idle)) with
    rafValid := true, rafIw := 8, rafDw := 8 }

theorem registerReady_meets (address value : Nat) (isWrite : Bool) :
    (registerReady address value isWrite).tapOwner = true
    ∧ (registerReady address value isWrite).rafValid = true
    ∧ Ready (registerPlan Config.params (registerReady address value isWrite).rafIw
        (registerReady address value isWrite).rafDw address isWrite value (registerScans .idle))
        (registerReady address value isWrite) :=
  ⟨rfl, rfl, (Meets.of (registerPlan_runs .idle address value isWrite)).2⟩

/-- The greatest address and value, in a payload; the least, in an empty one. -/
theorem witness_RegTransactionExchanges :
    (127 < 2 ^ ((registerReady 127 255 true).rafIw - 1)
      ∧ 255 < 2 ^ (registerReady 127 255 true).rafDw
      ∧ [0xFF#8] = beBytes ((registerReady 127 255 true).rafDw / 8) 255
      ∧ Ready (registerPlan Config.params 8 8 127 true 255 (registerScans .idle))
        (registerReady 127 255 true))
    ∧ 0 < 2 ^ ((registerReady 0 0 false).rafIw - 1)
    ∧ (([] : List Byte) = [] ∧ 0 = 0)
    ∧ Ready (registerPlan Config.params 8 8 0 false 0 (registerScans .idle))
        (registerReady 0 0 false) :=
  ⟨⟨by decide, by decide, by decide, (registerReady_meets _ _ _).2.2⟩, by decide, ⟨rfl, rfl⟩,
    (registerReady_meets _ _ _).2.2⟩

theorem witness_RegReadAndRegWrite :
    127 < 2 ^ ((registerReady 127 0 false).rafIw - 1)
    ∧ Ready (registerPlan Config.params 8 8 127 false 0 (registerScans .idle))
        (registerReady 127 0 false)
    ∧ 255 < 2 ^ (registerReady 127 255 true).rafDw
    ∧ Ready (registerPlan Config.params 8 8 127 true 255 (registerScans .idle))
        (registerReady 127 255 true) :=
  ⟨by decide, (registerReady_meets _ _ _).2.2, by decide, (registerReady_meets _ _ _).2.2⟩

/-- Each operation, at the greatest address; a value in a payload, and none. -/
theorem witness_RegReadDetectsFirst :
    usableWidth (probeScans .reset (2 ^ 8 - 1)) 8 ∧ usableWidth (probeScans .drPause (2 ^ 8 - 1)) 8
    ∧ 127 < 2 ^ (8 - 1) ∧ 255 < 2 ^ 8 ∧ [0xFF#8] = beBytes (8 / 8) 255
    ∧ ∀ isWrite, ∀ value ∈ [0, 255],
      Meets .idle (detectPlan Config.params (bits 5 0) (probeScans .reset (2 ^ 8 - 1))
          (probeScans .drPause (2 ^ 8 - 1)) 8 8
        ++ registerPlan Config.params 8 8 127 isWrite value (registerScans .drPause)) := by
  refine ⟨⟨?_, by decide, by decide⟩, ⟨?_, by decide, by decide⟩, by decide, by decide, by decide,
    fun _ _ _ => .of ((detectPlan_runs _ _ _ _).append (registerPlan_runs _ _ _ _))⟩ <;>
  · rw [probeScans_leadingOnes _ (by decide)]; decide +kernel

theorem witness_RegisterRangesRefused :
    2 ^ ((widthsKnown .idle []).rafIw - 1) ≤ (0x80#32).toNat
    ∧ (List.replicate 4 0#8).length = (widthsKnown .idle []).rafDw / 8
    ∧ (([] : List Byte) = [] ∨ ([] : List Byte).length = (widthsKnown .idle []).rafDw / 8)
    ∧ [0#8] ≠ [] ∧ [0#8].length ≠ (widthsKnown .idle []).rafDw / 8
    ∧ ([] : List Byte).length ≠ (widthsKnown .idle []).rafDw / 8
    ∧ (List.replicate 5 0#8).length ≠ (widthsKnown .idle []).rafDw / 8 := by decide

-- CFGSEQ
/-- The bits of a `CONFIGURE` of one byte: an erase done at the first poll, `done` set. -/
def configureScans (id done : Nat) : ConfigureScans where
  partId := readScans .idle id
  restart := commandScans .idle 0 Config.params.nCmdIdle
  preconfigure := commandScans .idle 510 Config.params.nCmdIdle
  iscEnable := commandScans .idle 8 Config.params.nCmdIdle
  iscEnabled := readScans .idle 0x200
  erase := commandScans .idle 8 Config.params.nCmdIdle
  erasePoll := readScans .idle 0x200
  eraseCheck := readScans .idle 0x200
  initAddress := commandScans .idle 8 Config.params.nCmdIdle
  burst := ⟨irScan .idle, scan .irPause .shiftDr (bits 8 0) .drPause⟩
  burstIdle := runBits .drPause .drPause Config.params.nCfgIdle
  doneCheck := readScans .drPause done
  iscDisable := commandScans .idle 0 Config.params.nCmdIdle
  finalCheck := readScans .idle 0x100

theorem read_word {source : TapState} {v : Nat} (h : v < 2 ^ 32) :
    (readScans source v).data.word32 = BitVec.ofNat 32 v := by
  have h' : fits ⟨32, v⟩ := by unfold fits; exact h
  have := congrArg BitVector.val (ofBits_bitsOf h')
  simp only [ofBits] at this
  simp only [readScans, Scan.word32, scan, word, this]

theorem partIdPlan_runs (source : TapState) (v : Nat) :
    Runs (partIdPlan P (readScans source v)) source .idle :=
  .cons trivial ((readScans_fits _ _ _).append (.one trivial))

theorem iscEnablePlan_runs (v : Nat) :
    Runs (iscEnablePlan Config.params (commandScans .idle 8 Config.params.nCmdIdle)
      (readScans .idle v)) .idle .idle :=
  (Runs.append (u := .idle) (.cons trivial (commandPlan_runs (v := ⟨8, 0⟩) (by decide)))
    (checkPlan_runs _ _ _))

theorem erasePlan_runs :
    Runs (erasePlan Config.params (commandScans .idle 8 Config.params.nCmdIdle)
      (readScans .idle 0x200) (readScans .idle 0x200)) .idle .idle :=
  (Runs.append (Runs.append (commandPlan_runs (v := ⟨8, 1⟩) (by decide))
    (.cons trivial (statusPlan_runs _ _))) (checkPlan_runs _ _ _))

theorem iscDisablePlan_runs :
    Runs (iscDisablePlan Config.params (commandScans .idle 0 Config.params.nCmdIdle)) .idle .idle :=
  .cons trivial plainCommand_runs

theorem preconfigurePlan_runs :
    Runs (preconfigurePlan Config.params (commandScans .idle 510 Config.params.nCmdIdle)) .idle
      .idle := commandPlan_runs (v := Config.params.opdPreconf) (by decide)

theorem configureStart_runs (id done : Nat) :
    Runs (configureStartPlan Config.params [0x5A#8] (configureScans id done)) .idle .drPause := by
  refine Runs.append (u := .idle) (Runs.append (u := .idle) ?_ (.cons trivial
    (commandPlan_runs (v := ⟨8, 1⟩) (by decide)))) ?_
  · refine Runs.append (u := .idle) ?_ (.cons trivial erasePlan_runs)
    refine Runs.append (u := .idle) ?_ (.cons trivial (iscEnablePlan_runs _))
    refine Runs.append (u := .idle) ?_ (.cons trivial preconfigurePlan_runs)
    refine Runs.append (u := .idle) ?_ (.one trivial)
    refine Runs.append (u := .idle) ?_ (.cons trivial restartPlan_runs)
    exact .cons trivial (.cons trivial (.cons trivial (partIdPlan_runs _ _)))
  · exact .cons trivial (.cons (irScan_fits _) (.one (scan_fits _ _ _ (by decide) rfl)))

theorem configureDone_runs (id done : Nat) :
    Runs (configureDonePlan Config.params (configureScans id done)) .drPause .idle :=
  Runs.append (u := .drPause) (.cons trivial (.cons (run_fits rfl _) (.one trivial)))
    (checkPlan_runs _ _ _)

theorem configureEnd_runs : Runs (configureEndPlan Config.params) .idle .idle :=
  (sessionEnd_runs _).append (.one trivial)

theorem configureScans_start (id done : Nat) (h : id < 2 ^ 32)
    (h' : noDeviceId (BitVec.ofNat 32 id) = false) :
    (configureScans id done).starts Config.params := by
  refine ⟨?_, .inr ?_, ?_⟩
  · rw [configureScans, read_word h]; exact h'
  · simp only [configureScans]; rw [read_word (by decide)]; decide +kernel
  · simp only [configureScans]; rw [read_word (by decide)]; decide +kernel

theorem witness_ConfigureCompletes :
    (configureScans 0x41111043 0x300).starts Config.params
    ∧ (configureScans 0x41111043 0x300).completes Config.params
    ∧ Meets .idle (configurePlan Config.params [0x5A#8] (configureScans 0x41111043 0x300)) := by
  refine ⟨configureScans_start _ _ (by decide) (by decide), ⟨.inr ?_, .inr ?_⟩, .of (u := .idle) ?_⟩
  · simp only [configureScans]; rw [read_word (by decide)]; decide +kernel
  · simp only [configureScans]; rw [read_word (by decide)]; decide +kernel
  · have disable : Runs (.phase 9 :: iscDisablePlan Config.params
        (commandScans .idle 0 Config.params.nCmdIdle)) .idle .idle := .cons trivial iscDisablePlan_runs
    exact ((((configureStart_runs _ _).append (configureDone_runs _ _)).append disable).append
      (checkPlan_runs _ _ _)).append configureEnd_runs

theorem witness_ConfigureWithoutDevice : ∀ id ∈ [0, 0xFFFFFFFF],
    ((readScans .idle id).data.word32 = 0#32 ∨ (readScans .idle id).data.word32 = 0xFFFFFFFF#32)
    ∧ Meets .idle [.opcode Config.params.opcReadId,
        .instruction Config.params.opcReadId.toNat 8 .irPause (readScans .idle id).instruction,
        .data (ones 32) .idle (readScans .idle id).data] := by
  intro id hid
  have h : id < 2 ^ 32 ∧ (BitVec.ofNat 32 id = 0#32 ∨ BitVec.ofNat 32 id = 0xFFFFFFFF#32) := by
    revert id; decide
  rw [read_word h.1]
  exact ⟨h.2, .of (.cons trivial (readScans_fits _ _ _))⟩

/-- CFG-3's status word: `ErrCode` is the first violation. -/
theorem witness_ConfigureRejectedStatus :
    (configureScans 0x41111043 0x01800200).starts Config.params
    ∧ violations (decodeStatus Config.params
        (configureScans 0x41111043 0x01800200).doneCheck.data.word32) true false
        = [.errCode 3, .doneNotSet]
    ∧ Meets .idle (configureStartPlan Config.params [0x5A#8] (configureScans 0x41111043 0x01800200)
        ++ configureDonePlan Config.params (configureScans 0x41111043 0x01800200)
        ++ iscDisablePlan Config.params (configureScans 0x41111043 0x01800200).iscDisable
        ++ configureEndPlan Config.params) := by
  refine ⟨configureScans_start _ _ (by decide) (by decide), ?_, .of (u := .idle) ?_⟩
  · simp only [configureScans]; rw [read_word (by decide)]; decide +kernel
  · exact (((configureStart_runs _ _).append (configureDone_runs _ _)).append
      iscDisablePlan_runs).append configureEnd_runs

def unconfigureScans : UnconfigureScans where
  restart := commandScans .idle 0 Config.params.nCmdIdle
  preconfigure := commandScans .idle 510 Config.params.nCmdIdle
  iscEnable := commandScans .idle 8 Config.params.nCmdIdle
  iscEnabled := readScans .idle 0x200
  erase := commandScans .idle 8 Config.params.nCmdIdle
  erasePoll := readScans .idle 0x200
  eraseCheck := readScans .idle 0x200
  iscDisable := commandScans .idle 0 Config.params.nCmdIdle
  finalCheck := readScans .idle 0

theorem witness_UnconfigureCompletes : unconfigureScans.completes Config.params
    ∧ Meets .idle (unconfigurePlan Config.params unconfigureScans) := by
  refine ⟨⟨.inr ?_, ?_, .inr ?_⟩, .of (u := .idle) ?_⟩
  · simp only [unconfigureScans]; rw [read_word (by decide)]; decide +kernel
  · simp only [unconfigureScans]; rw [read_word (by decide)]; decide +kernel
  · simp only [unconfigureScans]; rw [read_word (by decide)]; decide +kernel
  · refine Runs.append (u := .idle) ?_ (sessionEnd_runs _)
    refine Runs.append (u := .idle) ?_ (checkPlan_runs _ _ _)
    refine Runs.append (u := .idle) ?_ (.cons trivial iscDisablePlan_runs)
    refine Runs.append (u := .idle) ?_ (.cons trivial erasePlan_runs)
    refine Runs.append (u := .idle) ?_ (.cons trivial (iscEnablePlan_runs _))
    refine Runs.append (u := .idle) ?_ (.cons trivial preconfigurePlan_runs)
    refine Runs.append (u := .idle) ?_ (.one trivial)
    exact Runs.append (u := .idle) (.cons trivial (.one trivial)) restartPlan_runs

theorem triggerPlan_runs :
    Runs (triggerPlan Config.params (commandScans .idle 0 Config.params.nCmdIdle)
      (runBits .idle .idle Config.params.nReconfIdle)) .idle .idle :=
  restartPlan_runs.append (.one (run_fits rfl _))

theorem witness_TriggerReconfigurationCompletes :
    Meets .idle (triggerPlan Config.params (commandScans .idle 0 Config.params.nCmdIdle)
      (runBits .idle .idle Config.params.nReconfIdle)) := .of triggerPlan_runs

/-- A link ready for polls, and a clock that moves as told. -/
def polled (advances : List Nat) (plan : List Act) : State :=
  { planned .idle plan with clock := advances }

theorem busy_word (source : TapState) (v : Nat) (h : v < 2 ^ 32) :
    (decodeStatus Config.params (readScans source v).data.word32).busy = v.testBit 12 := by
  rw [read_word h]
  change (BitVec.ofNat 32 v).getLsbD 12 = _
  rw [BitVec.getLsbD, BitVec.toNat_ofNat, Nat.mod_eq_of_lt h]

theorem busyPolls_runs (n : Nat) :
    Runs (busyPolls Config.params (List.replicate n (readScans .idle 0x1000))) .idle .idle := by
  induction n with
  | zero => exact .nil _
  | succ n ih =>
    exact Runs.append ((statusPlan_runs _ _).append (.cons trivial (.one trivial))) ih

/-- A flash status poll that reads this status byte. -/
def flashPoll (status : Byte) : Scan := spiScan [0xFF#8, status]

theorem flashPoll_runs (status : Byte) :
    Runs (flashStatusPlan Config.params (flashPoll status)) .idle .idle :=
  transferPlan_runs (by decide) rfl

theorem flashPolls_runs (status : Byte) (n : Nat) :
    Runs (flashPolls Config.params (List.replicate n (flashPoll status))) .idle .idle := by
  induction n with
  | zero => exact .nil _
  | succ n ih => exact Runs.append ((flashPoll_runs _).append (.cons trivial (.one trivial))) ih

/-- A wait of `n` unsuccessful polls and one more; for the device, and for the flash. -/
def deviceWait (n v : Nat) : List Act :=
  .clockRead :: busyPolls Config.params (List.replicate n (readScans .idle 0x1000))
    ++ statusPlan Config.params (readScans .idle v)

def flashWait (n : Nat) (before status : Byte) : List Act :=
  .clockRead :: flashPolls Config.params (List.replicate n (flashPoll before))
    ++ flashStatusPlan Config.params (flashPoll status)

theorem clockRead_runs {t : TapState} : Runs [.clockRead] t t := .one trivial

theorem deviceWait_runs (n v : Nat) : Runs (deviceWait n v) .idle .idle :=
  Runs.append (.cons trivial (busyPolls_runs n)) (statusPlan_runs _ _)

theorem flashWait_runs (n : Nat) (before status : Byte) :
    Runs (flashWait n before status) .idle .idle :=
  Runs.append (.cons trivial (flashPolls_runs before n)) (flashPoll_runs _)

theorem enableSent_runs :
    Runs (transferPlan [Config.params.flWriteEnable] (spiScan [0xFF#8])) .idle .idle :=
  transferPlan_runs (by decide) rfl

/-- No unsuccessful poll; and one, whose clock read is exactly at the deadline. -/
theorem witness_WaitPollsUntilNotBusy :
    (polled [3] []).clock = 3 :: [] ++ [] ∧ (polled [3, 10] []).clock = 3 :: [10] ++ []
    ∧ readTime Config.params [10] 0 ≤ 10
    ∧ readTime Config.params [Config.params.tCtrlTimeout] 0 ≤ Config.params.tCtrlTimeout
    ∧ (decodeStatus Config.params (readScans .idle 0x1000).data.word32).busy = true
    ∧ (decodeStatus Config.params (readScans .idle 0).data.word32).busy = false
    ∧ flashBusy Config.params (flashPoll 0x01#8).flashStatusByte = true
    ∧ flashBusy Config.params (flashPoll 0x00#8).flashStatusByte = false
    ∧ flashWel Config.params (flashPoll 0x00#8).flashStatusByte = false
    ∧ flashWel Config.params (flashPoll 0x02#8).flashStatusByte = true
    ∧ ∀ n ∈ [0, 1], ∀ advances,
      Ready (deviceWait n 0) (polled advances (deviceWait n 0))
      ∧ Ready (flashWait n 0x01#8 0x00#8) (polled advances (flashWait n 0x01#8 0x00#8))
      ∧ Ready (transferPlan [Config.params.flWriteEnable] (spiScan [0xFF#8])
            ++ flashWait n 0x00#8 0x02#8)
          (polled advances (transferPlan [Config.params.flWriteEnable] (spiScan [0xFF#8])
            ++ flashWait n 0x00#8 0x02#8)) := by
  exact ⟨rfl, rfl, by simp [readTime], by simp [readTime],
    (busy_word _ _ (by decide)).trans (by decide), (busy_word _ _ (by decide)).trans (by decide),
    by decide +kernel, by decide +kernel, by decide +kernel, by decide +kernel, fun n _ _ =>
    ⟨(Meets.of (deviceWait_runs n 0)).2, (Meets.of (flashWait_runs n _ _)).2,
      (Meets.of (enableSent_runs.append (flashWait_runs n _ _))).2⟩⟩

-- SPIB
theorem backgroundSpiPlan_runs :
    Runs (backgroundSpiPlan Config.params (commandScans .idle 16 Config.params.nCmdIdle)) .idle
      .idle :=
  (commandPlan_runs (v := ⟨16, 0x68FE⟩) (by decide)).append (.one trivial)

theorem begun_runs :
    Runs ([.session, .phase 1]
      ++ backgroundSpiPlan Config.params (commandScans .idle 16 Config.params.nCmdIdle)) .idle
      .idle :=
  Runs.append (u := .idle) (.cons trivial (.one trivial)) backgroundSpiPlan_runs

/-- The first unsuccessful poll already past the deadline; and the second, the first at it. -/
theorem witness_WaitTimesOut :
    (polled [3, 11] []).clock = 3 :: [11] ++ [] ∧ 10 < readTime Config.params [11] 0
    ∧ (polled [3, 10, 1] []).clock = 3 :: [10, 1] ++ []
    ∧ readTime Config.params [10, 1] 0 ≤ 10 ∧ 10 < readTime Config.params [10, 1] 1
    ∧ Config.params.tCtrlTimeout < readTime Config.params [Config.params.tCtrlTimeout + 1] 0
    ∧ (decodeStatus Config.params (readScans .idle 0x1000).data.word32).busy = true
    ∧ flashBusy Config.params (flashPoll 0x01#8).flashStatusByte = true
    ∧ flashWel Config.params (flashPoll 0x00#8).flashStatusByte = false
    ∧ ∀ n ∈ [0, 1], ∀ advances,
      Ready (deviceWait n 0x1000 ++ [.clockRead])
          (polled advances (deviceWait n 0x1000 ++ [.clockRead]))
      ∧ Ready (flashWait n 0x01#8 0x01#8 ++ [.clockRead])
          (polled advances (flashWait n 0x01#8 0x01#8 ++ [.clockRead]))
      ∧ Ready ([.session, .phase 1]
            ++ backgroundSpiPlan Config.params (commandScans .idle 16 Config.params.nCmdIdle)
            ++ .phase 2 :: enableTimeoutPlan Config.params (spiScan [0xFF#8])
              (List.replicate n (flashPoll 0x00#8)) (flashPoll 0x00#8) ++ sessionEndPlan 4)
          (polled advances ([.session, .phase 1]
            ++ backgroundSpiPlan Config.params (commandScans .idle 16 Config.params.nCmdIdle)
            ++ .phase 2 :: enableTimeoutPlan Config.params (spiScan [0xFF#8])
              (List.replicate n (flashPoll 0x00#8)) (flashPoll 0x00#8) ++ sessionEndPlan 4)) := by
  have enable (n : Nat) : Runs (enableTimeoutPlan Config.params (spiScan [0xFF#8])
      (List.replicate n (flashPoll 0x00#8)) (flashPoll 0x00#8)) .idle .idle :=
    Runs.append (u := .idle) (Runs.append (u := .idle) (Runs.append (u := .idle) enableSent_runs
      (.cons trivial (flashPolls_runs _ n))) (flashPoll_runs _)) clockRead_runs
  refine ⟨rfl, by simp [readTime], rfl, by simp [readTime], by simp [readTime]; omega,
    by simp [readTime], (busy_word _ _ (by decide)).trans (by decide), by decide +kernel,
    by decide +kernel, fun n _ _ => ⟨(Meets.of ((deviceWait_runs n _).append clockRead_runs)).2,
      (Meets.of ((flashWait_runs n _ _).append clockRead_runs)).2, (Meets.of (t := .idle)
        (u := .idle) ?_).2⟩⟩
  have phase : Runs (.phase 2 :: enableTimeoutPlan Config.params (spiScan [0xFF#8])
      (List.replicate n (flashPoll 0x00#8)) (flashPoll 0x00#8)) .idle .idle :=
    .cons trivial (enable n)
  exact (begun_runs.append phase).append (sessionEnd_runs _)

theorem flashReadPlan_runs {frame received : List Byte} (h0 : frame ≠ [])
    (h : received.length = frame.length) :
    Runs (flashReadPlan Config.params frame (commandScans .idle 16 Config.params.nCmdIdle)
      (spiScan received)) .idle .idle :=
  Runs.append (u := .idle) (Runs.append (u := .idle) begun_runs
    (.cons trivial (transferPlan_runs h0 h))) (sessionEnd_runs _)

theorem witness_FlashIdentityReads :
    Meets .idle (flashReadPlan Config.params [Config.params.flJedecId, 0x00#8, 0x00#8, 0x00#8]
      (commandScans .idle 16 Config.params.nCmdIdle) (spiScan (List.replicate 4 0xFF#8)))
    ∧ Meets .idle (flashReadPlan Config.params
        (Config.params.flReadUid :: List.replicate 12 0x00#8)
        (commandScans .idle 16 Config.params.nCmdIdle) (spiScan (List.replicate 13 0xFF#8))) :=
  ⟨.of (flashReadPlan_runs (by decide) rfl), .of (flashReadPlan_runs (by decide) rfl)⟩

/-- A modifying command whose frame has `n` bytes, its waits over at the first poll. -/
def modifyScans (n : Nat) : ModifyScans :=
  ⟨spiScan [0xFF#8], spiScan [0xFF#8, 0x02#8], spiScan (List.replicate n 0xFF#8),
    spiScan [0xFF#8, 0x00#8]⟩

theorem modifyScans_succeeds (n : Nat) : (modifyScans n).succeeds Config.params := by
  constructor <;> · simp only [modifyScans]; decide +kernel

theorem statusTransfer_runs (received : List Byte) (h : received.length = 2) :
    Runs (transferPlan [Config.params.flReadStatus, 0x00#8] (spiScan received)) .idle .idle :=
  transferPlan_runs (by decide) h

theorem enable_runs (n : Nat) :
    Runs (writeEnablePlan Config.params (modifyScans n)) .idle .idle :=
  Runs.append (u := .idle) (Runs.append (u := .idle) (transferPlan_runs (by decide) rfl)
    (.one trivial)) (statusTransfer_runs _ rfl)

theorem modifyPlan_runs {frame : List Byte} {n : Nat} (h0 : frame ≠ []) (h : n = frame.length) :
    Runs (modifyPlan Config.params frame (modifyScans n)) .idle .idle :=
  Runs.append (u := .idle) (Runs.append (u := .idle) (transferPlan_runs h0 (by simp [h]))
    (.one trivial)) (statusTransfer_runs _ rfl)

theorem modify_runs {frame : List Byte} {n : Nat} (h0 : frame ≠ []) (h : n = frame.length) :
    Runs (writeEnablePlan Config.params (modifyScans n)
      ++ modifyPlan Config.params frame (modifyScans n)) .idle .idle :=
  (enable_runs n).append (modifyPlan_runs h0 h)

theorem witness_EraseFlashCompletes : (modifyScans 1).succeeds Config.params
    ∧ Meets .idle (eraseFlashPlan Config.params (commandScans .idle 16 Config.params.nCmdIdle)
        (modifyScans 1)) :=
  ⟨modifyScans_succeeds 1, .of (u := .idle) (Runs.append (u := .idle) (Runs.append
    (u := .idle) (Runs.append (u := .idle) begun_runs (.cons trivial (enable_runs 1)))
    (.cons trivial (modifyPlan_runs (by decide) rfl))) (sessionEnd_runs _))⟩

/-- The bits of a `FLASH` with these page frame lengths. -/
def flashScans (frames : List Nat) : FlashScans :=
  ⟨commandScans .idle 16 Config.params.nCmdIdle, modifyScans 2, modifyScans 1,
    frames.map modifyScans, commandScans .idle 0 Config.params.nCmdIdle,
    runBits .idle .idle Config.params.nReconfIdle⟩

theorem flashPlan_runs (unprotect eraseFirst : Bool) (offset : Nat) (bitstream : List Byte)
    (frames : List Nat)
    (hp : Runs (pagesPlan Config.params bitstream offset 0 (flashScans frames).pages) .idle .idle) :
    Runs (flashPlan Config.params unprotect eraseFirst offset bitstream (flashScans frames)) .idle
      .idle := by
  refine Runs.append (u := .idle) (Runs.append (u := .idle) (Runs.append (u := .idle)
    (Runs.append (u := .idle) (Runs.append (u := .idle) begun_runs (.cons trivial ?_))
      (.cons trivial ?_)) (.cons trivial hp)) (sessionEnd_runs _)) (.cons trivial triggerPlan_runs)
  · cases unprotect
    · exact .nil _
    · exact modify_runs (by decide) rfl
  · cases eraseFirst
    · exact .nil _
    · exact modify_runs (by decide) rfl

theorem pageFrame_length (bitstream : List Byte) (offset k : Nat) :
    (pageFrame Config.params bitstream offset k).length
      = 4 + min 256 (bitstream.length - k * 256) := by
  simp [pageFrame, be3]; omega

/-- Two pages with both options from address 0; and the empty write at the very end. -/
theorem witness_FlashWritesEveryPage :
    ((flashScans [260, 5]).completes Config.params true true (List.replicate 257 0xA5#8)
      ∧ Meets .idle (flashPlan Config.params true true 0 (List.replicate 257 0xA5#8)
          (flashScans [260, 5])))
    ∧ 2 ^ 24 % 256 = 0 ∧ 2 ^ 24 + ([] : List Byte).length ≤ 2 ^ 24
    ∧ (flashScans []).completes Config.params false false []
    ∧ Meets .idle (flashPlan Config.params false false (2 ^ 24) [] (flashScans [])) := by
  refine ⟨⟨⟨fun _ => modifyScans_succeeds 2, fun _ => modifyScans_succeeds 1, ?_, ?_⟩,
    .of (u := .idle) (flashPlan_runs _ _ _ _ _ ?_)⟩, by decide, by decide,
    ⟨nofun, nofun, nofun, rfl⟩, .of (u := .idle) (flashPlan_runs _ _ _ _ _ (.nil _))⟩
  · intro page h
    obtain ⟨n, -, rfl⟩ := List.mem_map.mp h
    exact modifyScans_succeeds n
  · rw [List.length_replicate]; rfl
  · have one (k n : Nat) (h : n = 4 + min 256 (257 - k * 256)) : Runs
        (writeEnablePlan Config.params (modifyScans n) ++ modifyPlan Config.params
          (pageFrame Config.params (List.replicate 257 0xA5#8) 0 k) (modifyScans n)) .idle .idle :=
      modify_runs (List.cons_ne_nil _ _) (by rw [pageFrame_length, List.length_replicate, h])
    exact Runs.append (u := .idle) (one 0 260 rfl)
      (Runs.append (u := .idle) (one 1 5 rfl) (.nil _))

theorem chunkFrame_length (offset length k : Nat) :
    (chunkFrame Config.params offset length k).length = 4 + min 256 (length - k * 256) := by
  simp [chunkFrame, be3]; omega

/-- Two chunks that end with the flash; and a read of no byte. -/
theorem witness_ReadFlashReads :
    Meets .idle (readFlashPlan Config.params (2 ^ 24 - 257) 257
      (commandScans .idle 16 Config.params.nCmdIdle)
      [spiScan (List.replicate 260 0#8), spiScan (List.replicate 5 0#8)])
    ∧ Meets .idle (readFlashPlan Config.params (2 ^ 24) 0
        (commandScans .idle 16 Config.params.nCmdIdle) [])
    ∧ 2 ^ 24 - 257 + 257 ≤ 2 ^ 24 := by
  have one (k n : Nat) (h : n = 4 + min 256 (257 - k * 256)) : Runs
      (transferPlan (chunkFrame Config.params (2 ^ 24 - 257) 257 k)
        (spiScan (List.replicate n 0#8))) .idle .idle :=
    transferPlan_runs (List.cons_ne_nil _ _)
      (by rw [chunkFrame_length, List.length_replicate, h])
  exact ⟨.of (u := .idle) (Runs.append (u := .idle) (Runs.append (u := .idle) begun_runs
      (.cons trivial (Runs.append (u := .idle) (one 0 260 rfl)
        (Runs.append (u := .idle) (one 1 5 rfl) (.nil _))))) (sessionEnd_runs _)),
    .of (u := .idle) (Runs.append (u := .idle) (Runs.append (u := .idle) begun_runs
      (.one trivial)) (sessionEnd_runs _)), by decide⟩

theorem witness_FlashRangesRefused :
    (1#32).toNat % 256 ≠ 0 ∧ (0xFFFF00#32).toNat % 256 = 0
    ∧ 2 ^ 24 < (0xFFFF00#32).toNat + (List.replicate 257 0#8).length
    ∧ 2 ^ 24 < (0xFFFFFF#32).toNat + (2#32).toNat := by
  rw [List.length_replicate]; decide

/-- The bits of a tunneled transfer that answers zeros, and the same bytes on the direct pins:
either variant is ready. -/
def tunnelScans (n : Nat) : ScanPair :=
  ⟨irScan .idle, scan .irPause .shiftDr (List.replicate (8 * n) false) .idle⟩

def spiWaiting (data : List Byte) : State :=
  { planned .idle (tunnelPlan Config.params data (tunnelScans data.length)) with
    spi := [.bytes (tunnelScans data.length).data.wireBytes] }

theorem tunnelPlan_runs {data : List Byte} (h0 : data ≠ []) :
    Runs (tunnelPlan Config.params data (tunnelScans data.length)) .idle .idle := by
  have hp : 0 < data.length := List.length_pos_iff.mpr h0
  exact .cons (irScan_fits _) (.cons trivial
    (.cons (scan_fits _ _ _ (by rw [toWire_len]; omega) (by simp)) (.one trivial)))

theorem spiWaiting_ready {data : List Byte} (h0 : data ≠ []) :
    (spiWaiting data).tapOwner = true ∧ SpiReady Config.params data (tunnelScans data.length)
      (tunnelScans data.length).data.wireBytes (spiWaiting data) := by
  refine ⟨rfl, ?_⟩
  unfold SpiReady
  split
  · exact ⟨(Meets.of (tunnelPlan_runs h0)).2, rfl⟩
  · refine ⟨rfl, ⟨[], rfl⟩, ?_⟩
    simp [tunnelScans, scan, Scan.wireBytes, fromWire, toBytes, ofBits]

theorem witness_SpiTransferExchanges :
    (spiWaiting [0xA5#8]).tapOwner = true ∧ SpiReady Config.params [0xA5#8] (tunnelScans 1)
      (tunnelScans 1).data.wireBytes (spiWaiting [0xA5#8]) := spiWaiting_ready (by decide)

/-- The greatest address, read and written, and the first that is refused. -/
theorem witness_SpiRegisterExchanges :
    ((127#32).toNat < 128 ∧ (spiWaiting (0xFF#8 :: be4 7#32)).tapOwner = true
      ∧ SpiReady Config.params (BitVec.ofNat 8 ((if true then 128 else 0) + (127#32).toNat)
          :: be4 7#32) (tunnelScans 5) (tunnelScans 5).data.wireBytes
          (spiWaiting (0xFF#8 :: be4 7#32)))
    ∧ SpiReady Config.params (BitVec.ofNat 8 (127#32).toNat :: be4 0) (tunnelScans 5)
        (tunnelScans 5).data.wireBytes (spiWaiting (0x7F#8 :: be4 0))
    ∧ 128 ≤ (128#32).toNat :=
  ⟨⟨by decide, spiWaiting_ready (by decide)⟩, (spiWaiting_ready (by decide)).2, by decide⟩

-- Rows of the wire tables
theorem witness_CommandRowsIssue :
    Meets .idle (iscDisablePlan Config.params (commandScans .idle 0 Config.params.nCmdIdle))
    ∧ Meets .idle (iscErasePlan Config.params (commandScans .idle 8 Config.params.nCmdIdle))
    ∧ Meets .idle (commandPlan Config.params.opcLscRefresh none Config.params.nCmdIdle .idle
        (commandScans .idle 0 Config.params.nCmdIdle))
    ∧ Meets .idle (preconfigurePlan Config.params (commandScans .idle 510 Config.params.nCmdIdle))
    ∧ Meets .idle (initAddressPlan Config.params (commandScans .idle 8 Config.params.nCmdIdle))
    ∧ Meets .idle (backgroundSpiPlan Config.params
        (commandScans .idle 16 Config.params.nCmdIdle)) :=
  ⟨.of iscDisablePlan_runs, .of (commandPlan_runs (v := ⟨8, 1⟩) (by decide)),
    .of plainCommand_runs, .of preconfigurePlan_runs,
    .of (commandPlan_runs (v := ⟨8, 1⟩) (by decide)), .of backgroundSpiPlan_runs⟩

theorem witness_IscEnableRowChecks :
    (violations (decodeStatus Config.params (readScans .idle 0x200).data.word32) false true = []
      ∧ Meets .idle (iscEnablePlan Config.params (commandScans .idle 8 Config.params.nCmdIdle)
          (readScans .idle 0x200)))
    ∧ violations (decodeStatus Config.params (readScans .idle 0).data.word32) false true
        = [.iscNotSet]
    ∧ Meets .idle (iscEnablePlan Config.params (commandScans .idle 8 Config.params.nCmdIdle)
          (readScans .idle 0)) := by
  refine ⟨⟨?_, .of (iscEnablePlan_runs _)⟩, ?_, .of (iscEnablePlan_runs _)⟩ <;>
  · rw [read_word (by decide)]; decide +kernel

theorem witness_ReadRowsAnswer :
    ((readScans .idle 1).data.word32 ≠ 0#32 ∧ (readScans .idle 1).data.word32 ≠ 0xFFFFFFFF#32
      ∧ Meets .idle (partIdPlan Config.params (readScans .idle 1)))
    ∧ Meets .idle (statusPlan Config.params (readScans .idle 0))
    ∧ Meets .idle [.instruction Config.params.opcVerifyId.toNat 8 .irPause (irScan .idle)] := by
  rw [read_word (by decide)]
  exact ⟨⟨by decide, by decide, .of (partIdPlan_runs _ _)⟩, .of (statusPlan_runs _ _),
    .of (.one (irScan_fits _))⟩

theorem witness_DataRowsShift :
    Meets .idle (metaPlan Config.params.opcMetaIr (fromBytes [0x85#8] .big)
      ⟨irScan .idle, scan .irPause .shiftDr (bits 8 0) .drPause⟩)
    ∧ Meets .idle (metaPlan Config.params.opcMetaDr (fromBytes [0x85#8] .big)
        ⟨irScan .idle, scan .irPause .shiftDr (bits 8 0) .drPause⟩)
    ∧ Meets .idle (tunnelPlan Config.params [0xA5#8] (tunnelScans 1))
    ∧ Meets .idle (burstPlan Config.params [0xA5#8]
          ⟨irScan .idle, scan .irPause .shiftDr (bits 8 0) .drPause⟩
        ++ [.run Config.params.nCfgIdle .drPause
          (runBits .drPause .drPause Config.params.nCfgIdle)]) :=
  ⟨.of (metaPlan_runs _ 0x85 _), .of (metaPlan_runs _ 0x85 _), .of (tunnelPlan_runs (by decide)),
    .of (u := .drPause) (Runs.append (u := .drPause) (.cons trivial (.cons (irScan_fits _)
      (.one (scan_fits _ _ _ (by decide) rfl)))) (.one (run_fits rfl _)))⟩

/-- One byte of data, and the least and the most dummy bytes. -/
theorem witness_FlashRowsTransact :
    Meets .idle (transferPlan [Config.params.flJedecId, 0x00#8, 0x00#8, 0x00#8]
      (spiScan (List.replicate 4 0#8)))
    ∧ Meets .idle (transferPlan [Config.params.flWriteEnable] (spiScan [0#8]))
    ∧ Meets .idle (transferPlan [Config.params.flChipErase] (spiScan [0#8]))
    ∧ Meets .idle (transferPlan (Config.params.flWritePage :: be3 0xFFFFFF#24 ++ [0x5A#8])
        (spiScan (List.replicate 5 0#8)))
    ∧ Meets .idle (transferPlan (Config.params.flReadPage :: be3 0#24 ++ List.replicate 1 0#8)
        (spiScan (List.replicate 5 0#8)))
    ∧ Meets .idle (transferPlan (Config.params.flReadPage :: be3 0#24 ++ List.replicate 256 0#8)
        (spiScan (List.replicate 260 0#8)))
    ∧ Meets .idle (transferPlan [Config.params.flReadStatus, 0x00#8] (spiScan [0#8, 0#8]))
    ∧ Meets .idle (transferPlan [Config.params.flWriteStatus, 0x00#8] (spiScan [0#8, 0#8]))
    ∧ Meets .idle (transferPlan (Config.params.flReadUid :: List.replicate 12 0x00#8)
        (spiScan (List.replicate 13 0#8))) := by
  refine ⟨?_, ?_, ?_, ?_, ?_, .of (transferPlan_runs (List.cons_ne_nil _ _) ?_), ?_, ?_, ?_⟩
  case refine_6 =>
    rw [List.length_append, List.length_replicate, List.length_replicate]; rfl
  all_goals exact .of (transferPlan_runs (by decide) rfl)

-- Errors and whole-machine rules
/-- The greatest phase and length that their fields hold. -/
theorem witness_ResponsesAndErrorRecord :
    255 < 256 ∧ responseField 8 255 = 0xFF#8 ∧ 2 ^ 32 - 1 < 2 ^ 32
    ∧ responseField 32 (2 ^ 32 - 1) = 0xFFFFFFFF#32 := by decide +kernel

theorem witness_EveryCommandAnswersOnce :
    (withResets [0] (owned .idle [])).resets ≠ [] := by decide

theorem witness_TrackedStateFollowsTicks :
    (owned .idle (bits 5 0)).resets = [] ∧ ∃ t, exec (.tapReset noFields) (owned .idle (bits 5 0)) = .next t ∧ t.trace.length = 5 :=
  ⟨rfl, _, rfl, rfl⟩

theorem witness_FlagsHaveTheirWriters :
    (widthsKnown .idle []).resets = []
    ∧ ∃ t, exec (.setIndicator noFields) (widthsKnown .idle []) = .next t ∧ t.rafValid = true :=
  ⟨rfl, _, rfl, rfl⟩

theorem witness_OnlyTwoCommandsWriteIndicator :
    (owned .idle []).resets = []
    ∧ ∃ t, exec (.forceBitbang noFields) (owned .idle []) = .next t ∧ t.trace = [] :=
  ⟨rfl, _, rfl, rfl⟩

theorem witness_ConfigureRestoresIdlePattern :
    (owned .idle []).tapOwner = true ∧ (owned .idle []).resets = []
    ∧ [0x5A#8] ≠ ([] : List Byte) := ⟨rfl, rfl, by decide⟩

theorem witness_RecordsDoNotMatter :
    withoutRecords State.reset = withoutRecords { State.reset with
      ghostIr := some ⟨8, 0xE0⟩, indPattern := 7, hostResp := [0#8] }
    ∧ State.reset ≠ { State.reset with
        ghostIr := some ⟨8, 0xE0⟩, indPattern := 7, hostResp := [0#8] } := by
  refine ⟨rfl, fun h => ?_⟩
  have := congrArg State.ghostIr h
  cases this

end Sys2Proof.Tests
end

section
/-! Every command is one command cycle (spec/30_encoding.md R101) around an operation. A law that
sequencing keeps, and that the engine's named operations obey, is a law of every command's
operation: the commands are listed once here, for every such law. -/

namespace Sys2Proof.Machine

/-- A command runs one command cycle, around an operation with the property. -/
def Runs (Q : Engine (List Byte) → Prop) (i : Instr) : Prop :=
  ∃ op body, (∀ s, exec i s = commandCycle op body s) ∧ Q body

/-- R23, R140: what a good `ACQUIRE` writes. -/
def sessionOpened (s : State) : State := forgetLatched { s with tapOwner := true }

/-- R141: what a good `RELEASE` writes. -/
def sessionReleased (s : State) : State :=
  { s with tapBitbang := false, rafValid := false, tapOwner := false }

/-- A law that sequencing keeps, and that every part of the host operations obeys. -/
structure HostLaw (Q : ∀ {α : Type}, Engine α → Prop) : Prop where
  pure : ∀ {α : Type} (x : α), Q (pure x : Engine α)
  bind : ∀ {α β : Type} {m : Engine α} {f : α → Engine β}, Q m → (∀ x, Q (f x)) → Q (m >>= f)
  raise : ∀ {α : Type} (r : Raise), Q (raise r : Engine α)
  readOwner : Q (observe State.tapOwner)
  openSession : Q (update sessionOpened)
  releaseSession : Q (update sessionReleased)
  setBitbang : ∀ enable, Q (setBitbang enable)
  tapReset : Q tapReset
  moveToState : ∀ target, Q (moveToState target)
  shiftInstruction : ∀ opcode length after, Q (shiftInstruction opcode length after)
  shiftDataOrdered : ∀ op, Q (shiftDataOrdered op)
  runTest : ∀ cycles state, Q (runTest cycles state)
  enumerate : Q (enumerate Config.params)
  indicator : ∀ p, Q (indicator p)
  setPattern : ∀ p, Q (setPattern p)
  detectWidths : Q (detectWidths Config.params)
  regExchange : ∀ address isWrite emptyIsZero payload,
    Q (regExchange Config.params address isWrite emptyIsZero payload)
  configure : ∀ bitstream, Q (configure Config.params bitstream)
  unconfigure : Q (unconfigure Config.params)
  triggerReconfiguration : Q (triggerReconfiguration Config.params)
  readFlashId : Q (readFlashId Config.params)
  readFlashUid : Q (readFlashUid Config.params)
  eraseFlash : Q (eraseFlash Config.params)
  flashWrite : ∀ op, Q (flashWrite Config.params op)
  readFlash : ∀ offset length, Q (readFlash Config.params offset length)
  spiTransfer : ∀ data invertCs, Q (spiTransfer Config.params data invertCs)
  spiRegTransaction : ∀ address isWrite value,
    Q (spiRegTransaction Config.params address isWrite value)

/-- A law that the parts of the wire tables' rows obey too. -/
structure CommandLaw (Q : ∀ {α : Type}, Engine α → Prop) : Prop extends HostLaw Q where
  readPartId : Q (readPartId Config.params)
  readStatus : Q (readStatus Config.params)
  iscEnable : Q (iscEnable Config.params)
  iscDisable : Q (iscDisable Config.params none)
  iscErase : Q (iscErase Config.params)
  refresh : Q (execCommand Config.params Config.params.opcLscRefresh none Config.params.nCmdIdle
    .idle none)
  preconfigure : Q (preconfigure Config.params)
  initAddress : Q (initAddress Config.params)
  burst : ∀ bitstream, Q (burst Config.params bitstream)
  enterBackgroundSpi : Q (enterBackgroundSpi Config.params)
  metaShift : ∀ opc word, Q (metaShift opc word)
  spiTunneled : ∀ data, Q (spiTunneled Config.params data)
  bgSpiTransfer : ∀ out, Q (bgSpiTransfer out)

section
variable {Q : ∀ {α : Type}, Engine α → Prop} {α β : Type}

theorem HostLaw.refuseIf (h : HostLaw Q) (condition : Bool) (d : RefusedDetail) :
    Q (refuseIf condition d) := by
  cases condition
  · exact h.pure ()
  · exact h.raise _

theorem HostLaw.takeOperands (h : HostLaw Q) (operands : Operand α) :
    Q (takeOperands operands) := by
  cases operands with
  | ok x => exact h.pure x
  | error d => exact h.raise _

/-- One operation, then a pure result. -/
theorem HostLaw.map (h : HostLaw Q) {m : Engine α} (hm : Q m) (g : α → β) :
    Q (m >>= fun x => Pure.pure (g x)) := h.bind hm fun x => h.pure (g x)

/-- R142: a command that checks the owner, then runs an operation. -/
theorem HostLaw.checked (h : HostLaw Q) {i : Instr} {op : Option Byte} {body : Engine (List Byte)}
    (he : ∀ s, exec i s = commandCycle op (requireOwner >>= fun _ => body) s) (hb : Q body) :
    Runs Q i :=
  ⟨op, _, he, h.bind (h.bind h.readOwner fun _ => h.refuseIf _ _) fun _ => hb⟩

/-- A host command that reads its operands, then runs an operation on them. -/
theorem HostLaw.operation (h : HostLaw Q) {i : Instr} {op : Byte} {operands : Operand α}
    {body : α → Engine (List Byte)}
    (he : ∀ s, exec i s = ownedCommand op (Machine.takeOperands operands >>= body) s)
    (hb : ∀ x, Q (body x)) : Runs Q i :=
  h.checked he (h.bind (h.takeOperands operands) hb)

/-- A law of the host operations is a law of every host command. -/
theorem HostLaw.runs (h : HostLaw Q) (i : Instr) (hi : isHostCommand i = true) : Runs Q i := by
  cases i with
  | acquire f =>
    exact ⟨_, _, fun _ => rfl, h.bind h.readOwner fun _ => h.bind (h.refuseIf _ _) fun _ =>
      h.bind (h.takeOperands _) fun _ => h.map h.openSession _⟩
  | release f => exact h.operation (fun _ => rfl) fun _ => h.map h.releaseSession _
  | tapReset f => exact h.operation (fun _ => rfl) fun _ => h.map h.tapReset _
  | moveToState f => exact h.operation (fun _ => rfl) fun _ => h.map (h.moveToState _) _
  | shiftInstruction f =>
    exact h.operation (fun _ => rfl) fun _ => h.map (h.shiftInstruction _ _ _) _
  | shiftData f => exact h.operation (fun _ => rfl) fun _ => h.shiftDataOrdered _
  | runTest f => exact h.operation (fun _ => rfl) fun _ => h.map (h.runTest _ _) _
  | enumerate f => exact h.operation (fun _ => rfl) fun _ => h.map h.enumerate _
  | forceBitbang f => exact h.operation (fun _ => rfl) fun _ => h.map (h.setBitbang _) _
  | playPattern f => exact h.checked (fun _ => rfl) <| h.raise _
  | setIndicator f =>
    exact h.operation (fun _ => rfl) fun _ => h.bind (h.indicator _) fun _ => h.map (h.setPattern _) _
  | detectWidths f => exact h.operation (fun _ => rfl) fun _ => h.map h.detectWidths _
  | regTransaction f | regRead f | regWrite f =>
    exact h.operation (fun _ => rfl) fun _ => h.map (h.regExchange _ _ _ _) _
  | configure f => exact h.operation (fun _ => rfl) fun _ => h.configure _
  | unconfigure f => exact h.operation (fun _ => rfl) fun _ => h.map h.unconfigure _
  | triggerReconfiguration f =>
    exact h.operation (fun _ => rfl) fun _ => h.map h.triggerReconfiguration _
  | readFlashId f => exact h.operation (fun _ => rfl) fun _ => h.readFlashId
  | readFlashUid f => exact h.operation (fun _ => rfl) fun _ => h.readFlashUid
  | eraseFlash f => exact h.operation (fun _ => rfl) fun _ => h.map h.eraseFlash _
  | flash f => exact h.operation (fun _ => rfl) fun _ => h.map (h.flashWrite _) _
  | readFlash f => exact h.operation (fun _ => rfl) fun _ => h.readFlash _ _
  | spiTransfer f => exact h.operation (fun _ => rfl) fun _ => h.spiTransfer _ _
  | spiRegTransaction f | spiRegRead f =>
    exact h.operation (fun _ => rfl) fun _ => h.spiRegTransaction _ _ _
  | spiRegWrite f => exact h.operation (fun _ => rfl) fun _ => h.map (h.spiRegTransaction _ _ _) _
  | _ => cases hi

/-- A law of every operation is a law of every command. -/
theorem CommandLaw.runs (h : CommandLaw Q) (i : Instr) : Runs Q i := by
  cases i with
  | opcReadId => exact h.checked (fun _ => rfl) <| h.map h.readPartId _
  | opcLscReadStatus => exact h.checked (fun _ => rfl) <| h.map h.readStatus _
  | opcIscEnable => exact h.checked (fun _ => rfl) <| h.map h.iscEnable _
  | opcIscDisable => exact h.checked (fun _ => rfl) <| h.map h.iscDisable _
  | opcIscErase => exact h.checked (fun _ => rfl) <| h.map h.iscErase _
  | opcLscRefresh => exact h.checked (fun _ => rfl) <| h.map h.refresh _
  | opcPreconf => exact h.checked (fun _ => rfl) <| h.map h.preconfigure _
  | opcLscInitAddress => exact h.checked (fun _ => rfl) <| h.map h.initAddress _
  | opcLscBitstreamBurst bitstream =>
    exact h.checked (fun _ => rfl) <| h.bind (h.refuseIf _ _) fun _ =>
      h.bind (h.burst _) fun _ => h.map (h.runTest _ _) _
  | opcLscEnterBackgroundSpi => exact h.checked (fun _ => rfl) <| h.map h.enterBackgroundSpi _
  | opcVerifyId => exact h.checked (fun _ => rfl) <| h.map (h.shiftInstruction _ _ _) _
  | opcMetaIr word | opcMetaDr word =>
    exact h.checked (fun _ => rfl) <| h.bind (h.refuseIf _ _) fun _ => h.map (h.metaShift _ _) _
  | opcSpiDebug data =>
    exact h.checked (fun _ => rfl) <| h.bind (h.refuseIf _ _) fun _ => h.spiTunneled _
  | flReadStatus => exact h.checked (fun _ => rfl) <| h.map (h.map (h.bgSpiTransfer _) _) _
  | flJedecId | flWriteEnable | flChipErase | flWritePage | flReadPage | flWriteStatus | flReadUid =>
    exact h.checked (fun _ => rfl) <| h.map (h.bgSpiTransfer _) _
  | _ => exact h.toHostLaw.runs _ rfl

end

end Sys2Proof.Machine
end

section
/-! What a whole command does to the state, said once for every command: which single writes its
operation is made of (Laws/Frames.lean), what a session command writes, and how the command
answers. -/

namespace Sys2Proof.Machine

/-- The writes of a command's operation: the width cache is written by RAF only (R26), the bit-bang
flag by `FORCE_BITBANG` and the SPI transfer only (R24). -/
def commandWrites : Instr → Write → Prop
  | .detectWidths _ | .regTransaction _ | .regRead _ | .regWrite _ => Write.registers
  | .forceBitbang _ | .spiTransfer _ | .spiRegTransaction _ | .spiRegRead _ | .spiRegWrite _
  | .opcSpiDebug _ => Write.transfers
  | _ => Write.configures

/-- What a command's operation leaves of a state: nothing is done, or writes of its class are made
under an open session (R142), or the session itself is opened or released. -/
inductive Effect (i : Instr) (s : State) : State → Prop
  | nothing : Effect i s s
  | writes {u : State} (owned : s.tapOwner = true) (h : Reach (commandWrites i) s u) : Effect i s u
  | opens (f : HostFields) (hi : i = .acquire f) : Effect i s (sessionOpened s)
  | releases (f : HostFields) (hi : i = .release f) : Effect i s (sessionReleased s)

/-- A command ends: its operation leaves a state, and it answers from there or is abandoned. -/
def Ends (i : Instr) (s : State) : Prop :=
  ∃ op u t, exec i s = .next t ∧ Effect i (beginCommand op s) u ∧ Answered u t

variable {α : Type} {allowed : Write → Prop} {i : Instr} {s : State}

theorem commands_configures : HasCommands Write.configures :=
  fun w h => sequences_configures w (commands_sequences w h)

theorem Within.configures {m : Engine α} (h : Within Write.sequences anyResult m) :
    Within Write.configures anyResult m := h.mono sequences_configures fun _ h => h

/-- One operation, then a pure result. -/
theorem Within.map {β : Type} {m : Engine α} (h : Within allowed anyResult m) (g : α → β) :
    Within allowed anyResult (m >>= fun x => Pure.pure (g x)) := h.bind fun _ _ => .pure trivial

/-- A command refused before anything ran. -/
theorem Ends.refused (op : Option Byte) (e : ErrorRecord)
    (he : exec i s = .next (takeError e (beginCommand op s))) : Ends i s :=
  ⟨op, _, _, he, .nothing, .inr (.inl ⟨e, rfl⟩)⟩

/-- R142: a command that checks the owner ends, along the writes of its operation. -/
theorem Ends.checked {op : Option Byte} {body : Engine (List Byte)}
    (he : exec i s = commandCycle op (requireOwner >>= fun _ => body) s)
    (h : Within (commandWrites i) anyResult body) : Ends i s := by
  cases ho : s.tapOwner with
  | true =>
    obtain ⟨u, t, ht, hr, ha⟩ := commandCycle_within (op := op)
      (((Within.observe _).bind fun _ _ => Within.refuseIf _ _).bind fun _ _ => h) s
    exact ⟨op, u, t, he.trans ht, .writes ho hr, ha⟩
  | false =>
    refine .refused op (errorRecord (.refused .notOwner) (beginCommand op s)) (he.trans ?_)
    simp [commandCycle, requireOwner, bind_run, ho, commandOutcome]

/-- A host command that reads its operands, then runs an operation on them. -/
theorem Ends.operation {op : Byte} {operands : Operand α} {body : α → Engine (List Byte)}
    (he : exec i s = ownedCommand op (takeOperands operands >>= body) s)
    (h : ∀ x, Within (commandWrites i) anyResult (body x)) : Ends i s :=
  .checked he ((Within.takeOperands _).bind fun x _ => h x)

/-- R140: `ACQUIRE` refuses, or opens the session. -/
theorem acquire_ends (f : HostFields) (s : State) : Ends (.acquire f) s := by
  have he : exec (.acquire f) s = commandOutcome ((do
      refuseIf s.tapOwner .busy
      takeOperands (noOperands f)
      update sessionOpened
      pure []) (beginCommand (some opAcquire) s)) := rfl
  cases ho : s.tapOwner with
  | true => rw [ho] at he; exact .refused _ _ he
  | false =>
    cases hf : noOperands f with
    | error d => rw [ho, hf] at he; exact .refused _ _ he
    | ok x =>
      rw [ho, hf] at he
      exact ⟨some opAcquire, _, _, he, .opens f rfl, .inl ⟨[], rfl⟩⟩

/-- R141: `RELEASE` refuses, or closes the session. -/
theorem release_ends (f : HostFields) (s : State) : Ends (.release f) s := by
  have he : exec (.release f) s = ownedCommand opRelease (do
      takeOperands (noOperands f)
      update sessionReleased
      pure []) s := rfl
  cases ho : s.tapOwner with
  | false => exact .refused _ _ (he.trans (ownedCommand_not_owner _ _ s ho))
  | true =>
    rw [ownedCommand_owner _ _ s ho] at he
    cases hf : noOperands f with
    | error d => rw [hf] at he; exact .refused _ _ he
    | ok x =>
      rw [hf] at he
      exact ⟨some opRelease, _, _, he, .releases f rfl, .inl ⟨[], rfl⟩⟩

/-- R101, R142: every command ends, and does no more than its class of writes. -/
theorem exec_ends (i : Instr) (s : State) : Ends i s := by
  have hP := pollSleep_pos
  have hs := shifts_configures
  have hc := commands_configures
  cases i with
  | acquire f => exact acquire_ends f s
  | release f => exact release_ends f s
  | tapReset f => exact .operation rfl fun _ => (within_tapReset hs).map _
  | moveToState f => exact .operation rfl fun _ => (within_moveToState hs _).map _
  | shiftInstruction f => exact .operation rfl fun _ => (within_shiftInstruction hs _ _ _).map _
  | shiftData f => exact .operation rfl fun _ => within_shiftDataOrdered hs _
  | runTest f => exact .operation rfl fun _ => (within_runTest hs _ _).map _
  | enumerate f => exact .operation rfl fun _ => (within_enumerate hs _).map _
  | forceBitbang f => exact .operation rfl fun _ => (within_setBitbang _).map _
  | playPattern f => exact .checked rfl (.raise _)
  | setIndicator f =>
    exact .operation rfl fun _ => (within_indicator _).bind fun _ _ => (within_setPattern _).map _
  | detectWidths f => exact .operation rfl fun _ => (within_detectWidths _).map _
  | regTransaction f | regRead f | regWrite f =>
    exact .operation rfl fun _ => (within_regExchange _ _ _ _ _).map _
  | configure f => exact .operation rfl fun _ => within_configure hP _
  | unconfigure f => exact .operation rfl fun _ => (within_unconfigure hP).configures.map _
  | triggerReconfiguration f =>
    exact .operation rfl fun _ => (within_triggerReconfiguration hc _).map _
  | readFlashId f => exact .operation rfl fun _ => (within_readFlashId _).configures
  | readFlashUid f => exact .operation rfl fun _ => (within_readFlashUid _).configures
  | eraseFlash f => exact .operation rfl fun _ => (within_eraseFlash hP).configures.map _
  | flash f => exact .operation rfl fun _ => (within_flashWrite hP _).configures.map _
  | readFlash f => exact .operation rfl fun _ => (within_readFlash _ _ _).configures
  | spiTransfer f => exact .operation rfl fun _ => within_spiTransfer _ _ _
  | spiRegTransaction f | spiRegRead f =>
    exact .operation rfl fun _ => within_spiRegTransaction _ _ _ _
  | spiRegWrite f => exact .operation rfl fun _ => (within_spiRegTransaction _ _ _ _).map _
  | opcReadId => exact .checked rfl ((within_readPartId _).configures.map _)
  | opcLscReadStatus => exact .checked rfl ((within_readStatus hc _).map _)
  | opcIscEnable => exact .checked rfl ((within_iscEnable _).configures.map _)
  | opcIscDisable => exact .checked rfl ((within_iscDisable _ _).configures.map _)
  | opcIscErase => exact .checked rfl ((within_iscErase hc _).map _)
  | opcLscRefresh => exact .checked rfl ((within_execCommand hc _ _ _ _ _ _).map _)
  | opcPreconf => exact .checked rfl ((within_preconfigure hc _).map _)
  | opcLscInitAddress => exact .checked rfl ((within_initAddress hc _).map _)
  | opcLscBitstreamBurst bitstream =>
    exact .checked rfl <| (Within.refuseIf _ _).bind fun _ _ => (within_burst hc _ _).bind
      fun _ _ => (within_runTest hs _ _).map _
  | opcLscEnterBackgroundSpi => exact .checked rfl ((within_enterBackgroundSpi _).configures.map _)
  | opcVerifyId => exact .checked rfl ((within_shiftInstruction hs _ _ _).map _)
  | opcMetaIr word | opcMetaDr word =>
    exact .checked rfl <| (Within.refuseIf _ _).bind fun _ _ => (within_metaShift hs _ _).map _
  | opcSpiDebug data =>
    exact .checked rfl <| (Within.refuseIf _ _).bind fun _ _ => within_spiTunneled _ _
  | flReadStatus => exact .checked rfl ((within_flashStatus hc _).map _)
  | flJedecId | flWriteEnable | flChipErase | flWritePage | flReadPage | flWriteStatus | flReadUid =>
    exact .checked rfl ((within_bgSpiTransfer hc _).map _)

end Sys2Proof.Machine
end

section
/-! The tracked state and the flags (spec/10_state.md R22 to R26): what single writes keep, and so
what commands keep. -/

namespace Sys2Proof.Machine

variable {i : Instr} {s t u : State} {op : Option Byte}

/-! ### Single writes -/

/-- R22, R52, R272: the trace has only grown, and the tracked state moved with its new ticks. -/
def Tracks (s t : State) : Prop :=
  ∃ events : List Event, t.trace = events ++ s.trace
    ∧ t.tapState = walkState s.tapState (ticksTms events.reverse)

theorem Tracks.unmoved (htrace : t.trace = s.trace) (hstate : t.tapState = s.tapState) :
    Tracks s t := ⟨[], htrace, hstate⟩

theorem ticksTms_append (a b : List Event) : ticksTms (a ++ b) = ticksTms a ++ ticksTms b :=
  List.filterMap_append

theorem Tracks.trans (h : Tracks s t) (h' : Tracks t u) : Tracks s u := by
  obtain ⟨events, htrace, hstate⟩ := h
  obtain ⟨events', htrace', hstate'⟩ := h'
  refine ⟨events' ++ events, by rw [htrace', htrace, List.append_assoc], ?_⟩
  rw [hstate', hstate, List.reverse_append, ticksTms_append, walkState, walkState, walkState,
    List.foldl_append]

/-- Only a tick moves the tracked state, and it records itself. -/
theorem Write.apply_tracks (w : Write) (s : State) : Tracks s (w.apply s) := by
  cases w with
  | tick tms tdi tdo => exact ⟨[.tick tms tdi tdo s.tapBitbang], rfl, rfl⟩
  | clockRead => exact ⟨[.clockRead (s.time + clockAdvance s)], rfl, rfl⟩
  | delay d => exact ⟨[.delay d], rfl, rfl⟩
  | programPulse => exact ⟨[.programPulse], rfl, rfl⟩
  | warn w => exact ⟨[.warn w], rfl, rfl⟩
  | indicator p => exact ⟨[.indicator p], rfl, rfl⟩
  | spiExchange csInverted sent received =>
    exact ⟨[.spiDirect csInverted sent received], rfl, rfl⟩
  | _ => exact .unmoved rfl rfl

/-- R23: no single write opens or closes the session. -/
theorem Write.apply_tapOwner (w : Write) (s : State) : (w.apply s).tapOwner = s.tapOwner := by
  cases w <;> rfl

/-- R26: the width cache. -/
def widthCache (s : State) : Bool × Nat × Nat := (s.rafValid, s.rafIw, s.rafDw)

/-- R26: it is written by a measurement only. -/
theorem Write.apply_widthCache {w : Write} (hw : ∀ iw dw, w ≠ .widths iw dw) (s : State) :
    widthCache (w.apply s) = widthCache s := by
  cases w with
  | widths iw dw => exact absurd rfl (hw iw dw)
  | _ => rfl

/-- R24: the bit-bang flag is written by its own write only. -/
theorem Write.apply_tapBitbang {w : Write} (hw : ∀ b, w ≠ .bitbang b) (s : State) :
    (w.apply s).tapBitbang = s.tapBitbang := by
  cases w with
  | bitbang b => exact absurd rfl (hw b)
  | _ => rfl

/-! ### Writes of a class -/

variable {allowed : Write → Prop}

/-- An element that every write of a class keeps is kept along the class. -/
theorem Reach.keeps {α : Type} (element : State → α)
    (hw : ∀ w s, allowed w → element (w.apply s) = element s) (h : Reach allowed s t) :
    element t = element s :=
  Reach.induction (R := fun s t => element t = element s) (fun _ => rfl)
    (fun h h' => h'.trans h) hw h

theorem Reach.tracks (h : Reach allowed s t) : Tracks s t :=
  Reach.induction (fun _ => .unmoved rfl rfl) Tracks.trans (fun w s _ => w.apply_tracks s) h

theorem Reach.tapOwner_eq (h : Reach allowed s t) : t.tapOwner = s.tapOwner :=
  h.keeps State.tapOwner fun w s _ => w.apply_tapOwner s

/-! ### Whole commands -/

/-- Where no reset comes, none has come when the operation is over. -/
theorem Effect.resets_nil (h : Effect i s u) (hs : s.resets = []) : u.resets = [] := by
  cases h with
  | nothing => exact hs
  | writes _ hr => exact hr.resets_nil hs
  | opens => exact hs
  | releases => exact hs

/-- R101, R265: where no reset comes, a command returns or takes an error. -/
theorem Answered.undisturbed (h : Answered u t) (hu : u.resets = []) :
    (∃ data, t = finishCommand data u) ∨ (∃ e, t = takeError e u) := by
  obtain h | h | ⟨hd, -⟩ := h
  · exact .inl h
  · exact .inr h
  · simp [resetDue, hu] at hd

/-- What answering does not write, a command without reset leaves as its operation did. -/
theorem Answered.keeps {α : Type} (element : State → α)
    (hf : ∀ data u, element (finishCommand data u) = element u)
    (he : ∀ e u, element (takeError e u) = element u) (h : Answered u t) (hu : u.resets = []) :
    element t = element u := by
  obtain ⟨data, rfl⟩ | ⟨e, rfl⟩ := h.undisturbed hu
  · exact hf data u
  · exact he e u

theorem Effect.tracks (h : Effect i s u) : Tracks s u := by
  cases h with
  | writes _ hr => exact hr.tracks
  | _ => exact .unmoved rfl rfl

/-- R23: the session is opened by `ACQUIRE` and closed by `RELEASE` only. -/
theorem Effect.tapOwner_eq (h : Effect i s u) (ha : ∀ f, i ≠ .acquire f)
    (hr : ∀ f, i ≠ .release f) : u.tapOwner = s.tapOwner := by
  cases h with
  | nothing => rfl
  | writes _ h => exact h.tapOwner_eq
  | opens f hi => exact absurd hi (ha f)
  | releases f hi => exact absurd hi (hr f)

/-- Only detection and the register operations measure widths. -/
theorem commandWrites_widths (hi : ∀ f, i ≠ .detectWidths f ∧ i ≠ .regTransaction f
    ∧ i ≠ .regRead f ∧ i ≠ .regWrite f) (iw dw : Nat) : ¬ commandWrites i (.widths iw dw) := by
  cases i with
  | detectWidths f => exact absurd rfl (hi f).1
  | regTransaction f => exact absurd rfl (hi f).2.1
  | regRead f => exact absurd rfl (hi f).2.2.1
  | regWrite f => exact absurd rfl (hi f).2.2.2
  | _ => exact id

theorem Effect.widthCache_eq (h : Effect i s u) (hr : ∀ f, i ≠ .release f)
    (hi : ∀ f, i ≠ .detectWidths f ∧ i ≠ .regTransaction f ∧ i ≠ .regRead f ∧ i ≠ .regWrite f) :
    widthCache u = widthCache s := by
  cases h with
  | nothing | opens => rfl
  | releases f hf => exact absurd hf (hr f)
  | writes _ h =>
    exact h.keeps widthCache fun w s ha => Write.apply_widthCache
      (by rintro iw dw rfl; exact commandWrites_widths hi iw dw ha) s

/-- Only `FORCE_BITBANG` and the SPI transfer write the bit-bang flag by a write of their own. -/
theorem commandWrites_bitbang (hi : ∀ f, i ≠ .forceBitbang f ∧ i ≠ .spiTransfer f
    ∧ i ≠ .spiRegTransaction f ∧ i ≠ .spiRegRead f ∧ i ≠ .spiRegWrite f)
    (hd : ∀ data, i ≠ .opcSpiDebug data) (b : Bool) : ¬ commandWrites i (.bitbang b) := by
  cases i with
  | forceBitbang f => exact absurd rfl (hi f).1
  | spiTransfer f => exact absurd rfl (hi f).2.1
  | spiRegTransaction f => exact absurd rfl (hi f).2.2.1
  | spiRegRead f => exact absurd rfl (hi f).2.2.2.1
  | spiRegWrite f => exact absurd rfl (hi f).2.2.2.2
  | opcSpiDebug data => exact absurd rfl (hd data)
  | _ => exact id

theorem Effect.tapBitbang_eq (h : Effect i s u) (hr : ∀ f, i ≠ .release f)
    (hi : ∀ f, i ≠ .forceBitbang f ∧ i ≠ .spiTransfer f ∧ i ≠ .spiRegTransaction f
      ∧ i ≠ .spiRegRead f ∧ i ≠ .spiRegWrite f) (hd : ∀ data, i ≠ .opcSpiDebug data) :
    u.tapBitbang = s.tapBitbang := by
  cases h with
  | nothing | opens => rfl
  | releases f hf => exact absurd hf (hr f)
  | writes _ h =>
    exact h.keeps State.tapBitbang fun w s ha => Write.apply_tapBitbang
      (by rintro b rfl; exact commandWrites_bitbang hi hd b ha) s

/-- Where no reset comes, a command's answer comes from its operation's effect on the state. -/
theorem exec_undisturbed (hs : s.resets = []) (h : exec i s = .next t) :
    ∃ op u, Effect i (beginCommand op s) u ∧ u.resets = [] ∧ Answered u t := by
  obtain ⟨op, u, t', ht, hu, ha⟩ := exec_ends i s
  obtain rfl : t' = t := Host.Outcome.next.inj (ht.symm.trans h)
  exact ⟨op, u, hu, hu.resets_nil hs, ha⟩

/-- Settles O56: every single write tracks the ticks, and answering makes none. -/
theorem trackedStateFollowsTicks : Obligations.TrackedStateFollowsTicks := by
  intro i s t hs h
  obtain ⟨op, u, hu, hr, ha⟩ := exec_undisturbed hs h
  have htrace := ha.keeps State.trace (fun _ _ => rfl) (fun _ _ => rfl) hr
  have hstate := ha.keeps State.tapState (fun _ _ => rfl) (fun _ _ => rfl) hr
  exact hu.tracks.trans (.unmoved htrace hstate)

/-- Settles O57: no write of another command's class touches the flag, and answering does not. -/
theorem flagsHaveTheirWriters : Obligations.FlagsHaveTheirWriters := by
  intro i s t hs h hrel
  obtain ⟨op, u, hu, hr, ha⟩ := exec_undisturbed hs h
  refine ⟨fun hacq => ?_, fun hraf => ?_, fun hbit hspi => ?_⟩
  · have hkept := ha.keeps State.tapOwner (fun _ _ => rfl) (fun _ _ => rfl) hr
    exact hkept.trans (hu.tapOwner_eq hacq hrel)
  · have hkept := ha.keeps widthCache (fun _ _ => rfl) (fun _ _ => rfl) hr
    simpa [widthCache] using hkept.trans (hu.widthCache_eq hrel hraf)
  · have hkept := ha.keeps State.tapBitbang (fun _ _ => rfl) (fun _ _ => rfl) hr
    exact hkept.trans (hu.tapBitbang_eq hrel hbit hspi)

/-- Settles O2: the reset values meet each clause. -/
theorem resetSatisfiesInvariant : Obligations.ResetSatisfiesInvariant :=
  ⟨⟨rfl, rfl, rfl⟩, ⟨rfl, rfl, rfl⟩, nofun, fun _ => ⟨rfl, rfl⟩, nofun⟩

end Sys2Proof.Machine
end

section
/-! Reset, spec/70_reset_and_hazards.md R290: every command's operation meets the reset input as
Laws/Abandon.lean says, so every command does. -/

namespace Sys2Proof.Machine

/-- Every operation makes some number of primitive steps, and meets reset accordingly. -/
theorem interruptible_law : CommandLaw Interruptible where
  pure := .pure
  bind := .bind
  raise := .raise
  readOwner := .observe (by intros; rfl)
  openSession := .update (by intros; rfl) (by intros; rfl)
  releaseSession := .update (by intros; rfl) (by intros; rfl)
  setBitbang := setBitbang_interruptible
  tapReset := tapReset_interruptible
  moveToState := moveToState_interruptible
  shiftInstruction := shiftInstruction_interruptible
  shiftDataOrdered := shiftDataOrdered_interruptible
  runTest := runTest_interruptible
  enumerate := enumerate_interruptible _
  indicator := indicator_interruptible
  setPattern := setPattern_interruptible
  detectWidths := detectWidths_interruptible _
  regExchange := regExchange_interruptible _
  configure := configure_interruptible _
  unconfigure := unconfigure_interruptible _
  triggerReconfiguration := triggerReconfiguration_interruptible _
  readFlashId := readFlashId_interruptible _
  readFlashUid := readFlashUid_interruptible _
  eraseFlash := eraseFlash_interruptible _
  flashWrite := flashWrite_interruptible _
  readFlash := readFlash_interruptible _
  spiTransfer := spiTransfer_interruptible _
  spiRegTransaction := spiRegTransaction_interruptible _
  readPartId := readPartId_interruptible _
  readStatus := readStatus_interruptible _
  iscEnable := iscEnable_interruptible _
  iscDisable := iscDisable_interruptible _ _
  iscErase := iscErase_interruptible _
  refresh := execCommand_interruptible _ _ _ _ _ _
  preconfigure := preconfigure_interruptible _
  initAddress := initAddress_interruptible _
  burst := burst_interruptible _
  enterBackgroundSpi := enterBackgroundSpi_interruptible _
  metaShift := metaShift_interruptible
  spiTunneled := spiTunneled_interruptible _
  bgSpiTransfer := bgSpiTransfer_interruptible

/-! ### Answers -/

/-- R38: power-up leaves the table's values. -/
theorem reset_hasResetValues : HasResetValues State.reset :=
  ⟨rfl, rfl, rfl, rfl, rfl, rfl, rfl, rfl, rfl, rfl, rfl, rfl, rfl, rfl, rfl, rfl, rfl, rfl, rfl⟩

/-- R290: and so does every later assertion of reset. -/
theorem assertReset_hasResetValues (s : State) : HasResetValues (assertReset s) :=
  reset_hasResetValues

/-- R290: where reset is asserted between two commands, a step asserts it. -/
theorem step_assertReset {s : State} {later : List Nat} (h : s.resets = 0 :: later) :
    step s = .next (assertReset s) := by
  have hd : resetDue s = true := by simp [resetDue, h]
  rw [step, if_pos hd]

/-- Answering, or being abandoned, records no event. -/
theorem commandOutcome_trace {r : EStateM.Result Abort State (List Byte)} {t : State}
    (h : commandOutcome r = .next t) : t.trace = (endState r).trace := by
  cases r with
  | ok data u => cases h; rfl
  | error e u => cases e <;> cases h <;> rfl

/-- An answer does not depend on the reset input still to come. -/
theorem commandOutcome_withResets {r : EStateM.Result Abort State (List Byte)} {t : State}
    (resets : List Nat) (hr : ∀ u, r ≠ .error .reset u) (h : commandOutcome r = .next t) :
    commandOutcome (mapEnd (withResets resets) r) = .next (withResets resets t) := by
  cases r with
  | ok data u => cases h; rfl
  | error e u =>
    cases e with
    | raised => cases h; rfl
    | stuck => cases h
    | reset => exact absurd rfl (hr u)

/-- Settles O1: a reset state has the table's values, and a command stops where its operation does. -/
theorem resetLeavesTableValues : Obligations.ResetLeavesTableValues := by
  refine ⟨reset_hasResetValues, fun s later h => ?_, fun i s hs => ?_⟩
  · exact ⟨assertReset s, step_assertReset h, assertReset_hasResetValues s, rfl,
      congrArg List.tail h, rfl, rfl, rfl, rfl, rfl, rfl, rfl⟩
  · obtain ⟨op, body, he, hbody⟩ := interruptible_law.runs i
    obtain ⟨steps, hmeets⟩ := hbody (beginCommand op s) hs
    obtain ⟨-, -, done, hdone, -, -⟩ := exec_ends i s
    have hout : commandOutcome (body (beginCommand op s)) = .next done := (he s).symm.trans hdone
    refine ⟨steps, done, hdone, fun k later => ⟨fun hk => ?_, fun hk => ?_⟩⟩
    · calc exec i (withResets (k :: later) s)
          = commandOutcome (body (withResets (k :: later) (beginCommand op s))) := he _
        _ = .next (withResets ((k - steps) :: later) done) := by
          rw [hmeets.spared k later hk]
          exact commandOutcome_withResets _ hmeets.ends hout
    · obtain ⟨u, made, missing, hu, hresets, htrace, hmade, hmissing⟩ := hmeets.stopped k later hk
      have hstop : exec i (withResets (k :: later) s) = .next (assertReset u) :=
        (he _).trans (congrArg commandOutcome hu)
      exact ⟨assertReset u, made, missing, hstop, assertReset_hasResetValues u,
        congrArg List.tail hresets, htrace, hmade, (commandOutcome_trace hout).trans hmissing⟩

end Sys2Proof.Machine
end

section
/-! The invariant between two host commands, spec/10_state.md R39: a host command that begins with
its configuration session closed ends with it closed, whatever happens in between. -/

namespace Sys2Proof.Machine

variable {α β : Type} {allowed : Write → Prop} {i : Instr} {s t u : State}

/-! ### The configuration session -/

/-- An operation that starts with the session closed has it closed wherever it returns or raises. -/
def KeepsClosed (m : Engine α) : Prop := ∀ s, SessionClosed s → Ending SessionClosed (m s)

/-- R28: the session elements are written by their own write only. -/
def Write.keepsSession : Write → Prop
  | .session _ _ _ => False
  | _ => True

theorem commands_keepsSession : HasCommands Write.keepsSession := by
  intro w hw
  cases w <;> trivial

theorem registers_keepsSession (w : Write) (hw : w.registers) : w.keepsSession := by
  cases w <;> trivial

theorem transfers_keepsSession (w : Write) (hw : w.transfers) : w.keepsSession := by
  cases w <;> trivial

theorem Write.apply_sessionClosed {w : Write} (hw : w.keepsSession) (s : State)
    (h : SessionClosed s) : SessionClosed (w.apply s) := by
  cases w with
  | session => exact hw.elim
  | _ => exact h

theorem KeepsClosed.within {result : α → Prop} {m : Engine α} (h : Within allowed result m)
    (ha : ∀ w, allowed w → w.keepsSession) : KeepsClosed m := by
  intro s hs
  have hreach : ∀ {t}, Reach allowed s t → SessionClosed t := fun hr =>
    Reach.induction (R := fun s t => SessionClosed s → SessionClosed t) (fun _ => id)
      (fun h h' hs => h' (h hs)) (fun w s hw => Write.apply_sessionClosed (ha w hw) s) hr hs
  have h := h s
  cases hm : m s with
  | ok x t => rw [hm] at h; exact hreach h.1
  | error e t =>
    rw [hm] at h
    cases e with
    | raised => exact hreach h.1
    | stuck | reset => trivial

theorem KeepsClosed.bind {m : Engine α} {f : α → Engine β} (hm : KeepsClosed m)
    (hf : ∀ x, KeepsClosed (f x)) : KeepsClosed (m >>= f) :=
  fun s hs => (hm s hs).bind (fun _ h => h) fun x t ht => hf x t ht

theorem KeepsClosed.pure (x : α) : KeepsClosed (pure x : Engine α) := fun _ h => h

theorem KeepsClosed.raise (r : Raise) : KeepsClosed (raise r : Engine α) := fun _ h => h

theorem KeepsClosed.update {change : State → State}
    (h : ∀ s, SessionClosed s → SessionClosed (change s)) : KeepsClosed (update change) := h

theorem KeepsClosed.refuseIf (condition : Bool) (d : RefusedDetail) :
    KeepsClosed (refuseIf condition d) := by
  cases condition
  · exact .pure ()
  · exact .raise _

theorem Ending.mono {Q R : State → Prop} {r : EStateM.Result Abort State α}
    (hQ : ∀ t, Q t → R t) (h : Ending Q r) : Ending R r := by
  cases r with
  | ok x t => exact hQ t h
  | error e t =>
    cases e with
    | raised => exact hQ t h
    | stuck | reset => trivial

/-- An operation that closes the session on every exit. -/
theorem KeepsClosed.endsIn {m : Engine α} (h : EndsIn SessionClosed m) : KeepsClosed m :=
  fun s _ => h s

/-- After an operation that closes the session, one that keeps it closed. -/
theorem EndsIn.andThen {m : Engine α} {f : α → Engine β} (hm : EndsIn SessionClosed m)
    (hf : ∀ x, KeepsClosed (f x)) : EndsIn SessionClosed (m >>= f) :=
  fun s => (hm s).bind (fun _ h => h) fun x t ht => hf x t ht

/-- R266: what every exit of the cleanup block has, every exit of the operation has, whatever its
body is. -/
theorem EndsIn.cleanedUp {Q : State → Prop} (body : Engine α) {cleanup : Bool → Engine Unit}
    (hc : ∀ failed, EndsIn Q (cleanup failed)) : EndsIn Q (Machine.withCleanup body cleanup) := by
  intro s
  unfold Machine.withCleanup
  cases body s with
  | ok x t =>
    have h := hc false t
    simp only
    cases ht : cleanup false t with
    | ok => rw [ht] at h; exact h
    | error e => rw [ht] at h; cases e <;> exact h
  | error e t =>
    cases e with
    | raised r record =>
      have h := hc true t
      simp only
      cases ht : cleanup true t with
      | ok => rw [ht] at h; exact h
      | error e => rw [ht] at h; cases e <;> exact h
    | stuck | reset => trivial

/-- R195, R196: a session that is begun and cleaned up is closed on every exit. -/
theorem session_closes (P : Params) (phase : Nat) (body : Engine α) :
    EndsIn SessionClosed (sessionBegin >>= fun _ => withCleanup body (sessionEnd P phase)) :=
  EndsIn.bind (unraised_update _) fun _ => .cleanedUp body (sessionEnd_closes P phase)

theorem configure_keepsClosed (P : Params) (bitstream : List Byte) :
    KeepsClosed (configure P bitstream) :=
  (KeepsClosed.refuseIf _ _).bind fun _ => .endsIn <|
    EndsIn.bind (unraised_update _) fun _ =>
    EndsIn.bind (unraised_primitive (unraised_update _)) fun _ =>
    EndsIn.bind (unraised_update _) fun _ =>
    (EndsIn.cleanedUp _ fun failed s =>
      (configureEnd_closes P failed s).mono fun _ h => h.1).andThen fun _ _ h => h

theorem flashWrite_keepsClosed (P : Params) (op : FlashWrite) : KeepsClosed (flashWrite P op) :=
  (KeepsClosed.refuseIf _ _).bind fun _ => (KeepsClosed.refuseIf _ _).bind fun _ =>
    .endsIn <| EndsIn.bind (unraised_update _) fun _ =>
      (EndsIn.cleanedUp _ (sessionEnd_closes P 5)).andThen fun _ =>
        .within ((within_setPhase commands_keepsSession _).bind fun _ _ =>
          within_triggerReconfiguration commands_keepsSession P) fun _ h => h

theorem readFlash_keepsClosed (P : Params) (offset length : Nat) :
    KeepsClosed (readFlash P offset length) :=
  (KeepsClosed.refuseIf _ _).bind fun _ => .endsIn (session_closes P 3 _)

/-- R39 (a): a part of a host operation begins no session, or closes the one it begins. -/
theorem keepsClosed_law : HostLaw KeepsClosed :=
  have hs : HasShifts Write.keepsSession := commands_keepsSession.shifts
  { pure := .pure
    bind := .bind
    raise := .raise
    readOwner := fun _ h => h
    openSession := .update fun _ h => h
    releaseSession := .update fun _ h => h
    setBitbang := fun _ => .update fun _ h => h
    tapReset := .within (within_tapReset hs) fun _ h => h
    moveToState := fun _ => .within (within_moveToState hs _) fun _ h => h
    shiftInstruction := fun _ _ _ => .within (within_shiftInstruction hs _ _ _) fun _ h => h
    shiftDataOrdered := fun _ => .within (within_shiftDataOrdered hs _) fun _ h => h
    runTest := fun _ _ => .within (within_runTest hs _ _) fun _ h => h
    enumerate := .within (within_enumerate hs _) fun _ h => h
    indicator := fun p => .within (allowed := Write.keepsSession) (.primitive trivial
      (.write (fun _ => .indicator p) (fun _ => trivial) fun _ => rfl)) fun _ h => h
    setPattern := fun _ => .update fun _ h => h
    detectWidths := .within (within_detectWidths _) registers_keepsSession
    regExchange := fun _ _ _ _ => .within (within_regExchange _ _ _ _ _) registers_keepsSession
    configure := configure_keepsClosed _
    unconfigure := .endsIn (session_closes _ 6 _)
    triggerReconfiguration :=
      .within (within_triggerReconfiguration commands_keepsSession _) fun _ h => h
    readFlashId := .endsIn ((session_closes _ 3 _).andThen fun _ _ h => h)
    readFlashUid := .endsIn ((session_closes _ 3 _).andThen fun _ _ h => h)
    eraseFlash := .endsIn (session_closes _ 4 _)
    flashWrite := flashWrite_keepsClosed _
    readFlash := readFlash_keepsClosed _
    spiTransfer := fun _ _ => .within (within_spiTransfer _ _ _) transfers_keepsSession
    spiRegTransaction := fun _ _ _ =>
      .within (within_spiRegTransaction _ _ _ _) transfers_keepsSession }

/-! ### The other clauses -/

/-- R39 (c), R26: a valid width cache holds two positive multiples of 8. -/
def WidthsUsable (s : State) : Prop :=
  s.rafValid = true → 0 < s.rafIw ∧ s.rafIw % 8 = 0 ∧ 0 < s.rafDw ∧ s.rafDw % 8 = 0

/-- R39 (d): without an owner bit-bang is off and the width cache invalid. -/
def QuietWithoutOwner (s : State) : Prop :=
  s.tapOwner = false → s.tapBitbang = false ∧ s.rafValid = false

/-- R171: a width that a command writes is usable. -/
theorem commandWrites_usable {iw dw : Nat} (h : commandWrites i (.widths iw dw)) :
    (0 < iw ∧ iw % 8 = 0) ∧ (0 < dw ∧ dw % 8 = 0) := by
  cases i with
  | detectWidths | regTransaction | regRead | regWrite => exact h
  | _ => exact h.elim

theorem Write.apply_widthsUsable {w : Write} (hw : commandWrites i w) (h : WidthsUsable s) :
    WidthsUsable (w.apply s) := by
  cases w with
  | widths iw dw =>
    obtain ⟨⟨hi0, hi8⟩, hd0, hd8⟩ := commandWrites_usable hw
    exact fun _ => ⟨hi0, hi8, hd0, hd8⟩
  | _ => exact h

theorem Effect.widthsUsable (h : Effect i s u) (hs : WidthsUsable s) : WidthsUsable u := by
  cases h with
  | nothing | opens => exact hs
  | releases => exact nofun
  | writes _ hr =>
    exact Reach.induction (R := fun s t => WidthsUsable s → WidthsUsable t) (fun _ => id)
      (fun h h' hs => h' (h hs)) (fun _ _ hw => Write.apply_widthsUsable hw) hr hs

/-- R142: an operation makes its writes with an owner, and no write removes the owner. -/
theorem Effect.quietWithoutOwner (h : Effect i s u) (hs : QuietWithoutOwner s) :
    QuietWithoutOwner u := by
  cases h with
  | nothing => exact hs
  | writes owned hr => exact fun hu => by rw [hr.tapOwner_eq, owned] at hu; cases hu
  | opens => exact nofun
  | releases => exact fun _ => ⟨rfl, rfl⟩

/-! ### Commands and steps -/

theorem betweenCommands_assertReset (s : State) : BetweenCommands (assertReset s) :=
  resetSatisfiesInvariant

/-- R101: the end of a command clears `seq.*` and the port, and keeps the other clauses. -/
theorem betweenCommands_endCommand (response : List Byte) (hc : SessionClosed u)
    (hw : WidthsUsable u) (hq : QuietWithoutOwner u) :
    BetweenCommands (endCommand response u) := ⟨hc, ⟨rfl, rfl, rfl⟩, hw, hq, nofun⟩

/-- Where the operation of a command keeps the session closed, the command's answer has it so. -/
theorem commandOutcome_sessionClosed {r : EStateM.Result Abort State (List Byte)}
    (hr : Ending SessionClosed r) (h : commandOutcome r = .next t) : SessionClosed t := by
  cases r with
  | ok data u => cases h; exact hr
  | error e u =>
    cases e with
    | raised => cases h; exact hr
    | stuck => cases h
    | reset => cases h; exact (betweenCommands_assertReset u).1

/-- R39: a host command keeps the invariant. -/
theorem exec_betweenCommands (hi : isHostCommand i = true) (hs : BetweenCommands s)
    (h : exec i s = .next t) : BetweenCommands t := by
  obtain ⟨hclosed, -, hwidths, hquiet, -⟩ := hs
  obtain ⟨op, body, he, hbody⟩ := keepsClosed_law.runs i hi
  have htclosed : SessionClosed t :=
    commandOutcome_sessionClosed (hbody (beginCommand op s) hclosed) ((he s).symm.trans h)
  obtain ⟨op', u, t', ht, hu, ha⟩ := exec_ends i s
  obtain rfl : t' = t := Host.Outcome.next.inj (ht.symm.trans h)
  have huwidths : WidthsUsable u := hu.widthsUsable hwidths
  have huquiet : QuietWithoutOwner u := hu.quietWithoutOwner hquiet
  obtain ⟨data, rfl⟩ | ⟨e, rfl⟩ | ⟨-, rfl⟩ := ha
  · exact betweenCommands_endCommand (u := u) _ htclosed huwidths huquiet
  · exact betweenCommands_endCommand (u := { u with errLast := some e }) _ htclosed huwidths huquiet
  · exact betweenCommands_assertReset u

/-- R96: a refused frame leaves the state as it is, the answer and the port apart. -/
theorem rejectFrame_betweenCommands {e : DecodeError} (hs : BetweenCommands s)
    (h : rejectFrame e s = .next t) : BetweenCommands t := by
  obtain ⟨hclosed, -, hwidths, hquiet, -⟩ := hs
  cases e with
  | badFrame | unknownOp => cases h; exact ⟨hclosed, ⟨rfl, rfl, rfl⟩, hwidths, hquiet, nofun⟩
  | unknownWireOpcode | badWireFrame => cases h

/-- R82: what an operation code of the host frame names is a host command. -/
theorem hostOperation_isHostCommand {op : Byte} {command : HostFields → Instr}
    (h : hostOperation op = some command) (f : HostFields) : isHostCommand (command f) = true := by
  unfold hostOperation at h
  split at h <;> cases h <;> rfl

theorem decode_isHostCommand {P : Params} {frame : CommandFrame} (hf : frame.space = .host)
    (h : decode P frame = .ok i) : isHostCommand i = true := by
  rw [decode, hf] at h
  obtain ⟨op, command, f, hop, rfl, -, -⟩ := decodeHost_ok h
  exact hostOperation_isHostCommand hop f

/-- Settles O3, by what a step can be: a reset, a wait, a host command or a refused frame. -/
theorem stepKeepsInvariant : Obligations.StepKeepsInvariant := by
  intro s t hs h
  rw [step] at h
  cases hd : resetDue s with
  | true => rw [hd] at h; cases h; exact betweenCommands_assertReset s
  | false =>
    rw [hd, if_neg Bool.false_ne_true, fetch] at h
    cases hcmd : s.hostCmd with
    | none => rw [hcmd] at h; cases h; exact hs
    | some frame =>
      have ⟨_, _, _, _, hport⟩ := hs
      have hspace : frame.space = .host := hport frame hcmd
      cases hdec : decode Config.params frame with
      | ok i =>
        rw [hcmd, Option.map_some, hdec] at h
        exact exec_betweenCommands (decode_isHostCommand hspace hdec) hs h
      | error e =>
        rw [hcmd, Option.map_some, hdec] at h
        exact rejectFrame_betweenCommands hs h

end Sys2Proof.Machine
end

section
/-! No operation reads the records (spec/10_state.md R29, R31, R32): run from two states that differ
only in the ghost elements, `ind.pattern`, `err.last` and the last response, an operation ends alike.
One lemma per operation, as in Laws/Interruptions.lean. -/

namespace Sys2Proof.Machine

variable {α β : Type}

/-- Two ends of an operation that differ in the records of the state only. -/
inductive Alike : EStateM.Result Abort State α → EStateM.Result Abort State α → Prop
  | ok (x : α) {t t' : State} (h : withoutRecords t = withoutRecords t') : Alike (.ok x t) (.ok x t')
  | error (e : Abort) {t t' : State} (h : withoutRecords t = withoutRecords t') :
    Alike (.error e t) (.error e t')

/-- An operation whose end does not depend on the records. -/
def Blind (m : Engine α) : Prop :=
  ∀ s s', withoutRecords s = withoutRecords s' → Alike (m s) (m s')

/-- What does not depend on the records is the same in two states that differ in them only. -/
theorem read_eq_of_withoutRecords_eq {read : State → α} (hr : ∀ s, read (withoutRecords s) = read s)
    {s s' : State} (h : withoutRecords s = withoutRecords s') : read s = read s' := by
  rw [← hr s, h, hr s']

/-- States that differ in their records only do so after a change that does not read them. -/
theorem withoutRecords_congr (change : State → State)
    (hc : ∀ s, withoutRecords (change (withoutRecords s)) = withoutRecords (change s))
    {s s' : State} (h : withoutRecords s = withoutRecords s') :
    withoutRecords (change s) = withoutRecords (change s') :=
  read_eq_of_withoutRecords_eq (read := fun s => withoutRecords (change s)) hc h

/-! ### What an operation is made of -/

theorem Blind.pure (x : α) : Blind (pure x : Engine α) := fun _ _ h => .ok x h

theorem Blind.abortWith (e : Abort) : Blind (abortWith e : Engine α) := fun _ _ h => .error e h

/-- R267: a record shows the error and `seq.*`. -/
theorem errorRecord_blind (r : Raise) {s s' : State} (h : withoutRecords s = withoutRecords s') :
    errorRecord r s = errorRecord r s' := read_eq_of_withoutRecords_eq (fun _ => rfl) h

theorem Blind.raise (r : Raise) : Blind (raise r : Engine α) := fun s s' h => by
  rw [raise_run, raise_run, errorRecord_blind r h]
  exact .error _ h

theorem Blind.observe {read : State → α} (hr : ∀ s, read (withoutRecords s) = read s) :
    Blind (observe read) := fun s s' h => by
  rw [observe_run, observe_run, read_eq_of_withoutRecords_eq hr h]
  exact .ok _ h

theorem Blind.update {change : State → State}
    (hc : ∀ s, withoutRecords (change (withoutRecords s)) = withoutRecords (change s)) :
    Blind (update change) := fun _ _ h => .ok () (withoutRecords_congr change hc h)

theorem Blind.bind {m : Engine α} {f : α → Engine β} (hm : Blind m) (hf : ∀ x, Blind (f x)) :
    Blind (m >>= f) := fun s s' h => by
  have hends := hm s s' h
  rw [bind_run, bind_run]
  generalize m s = r, m s' = r' at hends ⊢
  cases hends with
  | ok x ht => exact hf x _ _ ht
  | error e ht => exact .error e ht

theorem Blind.ite {c : Prop} [Decidable c] {a b : Engine α} (ha : Blind a) (hb : Blind b) :
    Blind (if c then a else b) := by split <;> assumption

theorem Blind.refuseIf (condition : Bool) (d : RefusedDetail) : Blind (refuseIf condition d) :=
  .ite (.raise _) (.pure _)

theorem Blind.runIf {condition : Bool} {body : Engine Unit} (h : Blind body) :
    Blind (runIf condition body) := .ite h (.pure _)

theorem Blind.takeOperands (operands : Operand α) : Blind (takeOperands operands) := by
  cases operands with
  | ok x => exact .pure x
  | error d => exact .raise _

/-- R290: when reset is due does not depend on the records either. -/
theorem Blind.primitive {act : Engine α} (h : Blind act) : Blind (primitive act) :=
  fun s s' hs => by
  have hdue : resetDue s = resetDue s' :=
    read_eq_of_withoutRecords_eq (fun _ => rfl) hs
  have hcount : withoutRecords (countdown s) = withoutRecords (countdown s') :=
    withoutRecords_congr countdown (fun _ => rfl) hs
  rw [primitive_run, primitive_run, hdue]
  cases resetDue s' with
  | true => exact .error _ hs
  | false => exact h _ _ hcount

theorem Blind.attempt {body : Engine Unit} (h : Blind body) : Blind (attempt body) :=
  fun s s' hs => by
  have hends := h s s' hs
  unfold Machine.attempt
  generalize body s = r, body s' = r' at hends ⊢
  cases hends with
  | ok x ht => exact .ok _ ht
  | error e ht =>
    cases e with
    | raised => exact .ok _ ht
    | stuck | reset => exact .error _ ht

theorem Blind.withCleanup {body : Engine α} {cleanup : Bool → Engine Unit} (hb : Blind body)
    (hc : ∀ failed, Blind (cleanup failed)) : Blind (withCleanup body cleanup) :=
  fun s s' hs => by
  have hends := hb s s' hs
  unfold Machine.withCleanup
  generalize body s = r, body s' = r' at hends ⊢
  cases hends with
  | @ok x t t' ht =>
    have hafter := hc false t t' ht
    simp only
    generalize cleanup false t = r, cleanup false t' = r' at hafter ⊢
    cases hafter with
    | ok _ hu => exact .ok x hu
    | error e hu => exact .error e hu
  | @error e t t' ht =>
    cases e with
    | raised r record =>
      have hafter := hc true t t' ht
      simp only
      generalize cleanup true t = r, cleanup true t' = r' at hafter ⊢
      cases hafter with
      | ok _ hu => exact .error _ hu
      | error e hu => cases e <;> exact .error _ hu
    | stuck | reset => exact .error _ ht

/-! ### TAPC -/

theorem linkExchange_blind (tms tdi : Bool) : Blind (linkExchange tms tdi) := fun s s' h => by
  have hanswer : linkAnswer s = linkAnswer s' :=
    read_eq_of_withoutRecords_eq (fun _ => rfl) h
  have hnext : withoutRecords (nextLink s) = withoutRecords (nextLink s') :=
    withoutRecords_congr nextLink (fun _ => rfl) h
  rw [linkExchange, linkExchange, hanswer]
  cases linkAnswer s' with
  | bit tdo =>
    exact .ok tdo (withoutRecords_congr (afterTick tms tdi tdo) (fun _ => rfl) h)
  | _ => exact Blind.raise _ _ _ hnext

theorem tick_blind (tms tdi : Bool) : Blind (tick tms tdi) := (linkExchange_blind _ _).primitive

theorem walk_blind (tms : List Bool) : Blind (walk tms) := by
  induction tms with
  | nil => exact .pure _
  | cons b tms ih => exact (tick_blind _ _).bind fun _ => ih

theorem moveToState_blind (target : TapState) : Blind (moveToState target) :=
  (Blind.observe fun _ => rfl).bind fun _ => walk_blind _

theorem tapReset_blind : Blind tapReset :=
  (walk_blind _).bind fun _ => .update fun _ => rfl

theorem shiftBits_blind (leave : Bool) (bits : List Bool) : Blind (shiftBits leave bits) := by
  induction bits with
  | nil => exact .pure _
  | cons b bits ih =>
    exact (tick_blind _ _).bind fun _ => (Blind.update fun _ => rfl).bind fun _ => ih

theorem shiftReg_blind (shiftState stateAfter : TapState) (v : BitVector) :
    Blind (shiftReg shiftState v stateAfter) :=
  (moveToState_blind _).bind fun _ => (Blind.update fun _ => rfl).bind fun _ =>
  (shiftBits_blind _ _).bind fun _ => (moveToState_blind _).bind fun _ => .observe fun _ => rfl

theorem shiftInstruction_blind (opcode length : Nat) (stateAfter : TapState) :
    Blind (shiftInstruction opcode length stateAfter) :=
  (Blind.refuseIf _ _).bind fun _ => (shiftReg_blind _ _ _).bind fun _ =>
  (Blind.update fun _ => rfl).bind fun _ => .pure _

theorem shiftData_blind (tdi : Option BitVector) (length : Nat) (stateAfter : TapState) :
    Blind (shiftData tdi length stateAfter) :=
  (Blind.refuseIf _ _).bind fun _ => (shiftReg_blind _ _ _).bind fun _ =>
  (Blind.update fun _ => rfl).bind fun _ => .pure _

theorem shiftDataOrdered_blind (op : DataShift) : Blind (shiftDataOrdered op) :=
  (Blind.refuseIf _ _).bind fun _ => (Blind.refuseIf _ _).bind fun _ =>
  (shiftData_blind _ _ _).bind fun _ => .pure _

theorem runTest_blind (cycles : Nat) (runState : TapState) : Blind (runTest cycles runState) :=
  (Blind.refuseIf _ _).bind fun _ => (moveToState_blind _).bind fun _ => walk_blind _

theorem enumerateLoop_blind (P : Params) (n : Nat) (devices : List JtagDevice) :
    Blind (enumerateLoop P n devices) := by
  induction n generalizing devices with
  | zero => exact .pure _
  | succ n ih => exact (shiftData_blind _ _ _).bind fun _ => .ite (.pure _) (ih _)

theorem enumerate_blind (P : Params) : Blind (enumerate P) :=
  tapReset_blind.bind fun _ => (shiftInstruction_blind _ _ _).bind fun _ =>
  (enumerateLoop_blind _ _ _).bind fun _ => (moveToState_blind _).bind fun _ => .pure _

/-! ### RAF -/

theorem probeWidth_blind (opc : Byte) : Blind (probeWidth opc) :=
  (shiftInstruction_blind _ _ _).bind fun _ => (shiftData_blind _ _ _).bind fun _ => .pure _

theorem requireWidth_blind (width : Option Nat) : Blind (requireWidth width) := by
  cases width with
  | none => exact .raise _
  | some w => exact .ite (.raise _) (.pure _)

theorem detectWidths_blind (P : Params) : Blind (detectWidths P) :=
  (Blind.observe fun _ => rfl).bind fun _ => .ite (.observe fun _ => rfl) <|
  tapReset_blind.bind fun _ => (probeWidth_blind _).bind fun _ =>
  (requireWidth_blind _).bind fun _ => (probeWidth_blind _).bind fun _ =>
  (requireWidth_blind _).bind fun _ => (Blind.update fun _ => rfl).bind fun _ => .pure _

theorem metaShift_blind (opc : Byte) (word : BitVector) : Blind (metaShift opc word) :=
  (shiftInstruction_blind _ _ _).bind fun _ => shiftData_blind _ _ _

theorem regTransaction_blind (P : Params) (address : Nat) (isWrite : Bool) (value : Nat) :
    Blind (regTransaction P address isWrite value) :=
  (detectWidths_blind _).bind fun _ => (Blind.refuseIf _ _).bind fun _ =>
  (Blind.refuseIf _ _).bind fun _ => (metaShift_blind _ _).bind fun _ =>
  (metaShift_blind _ _).bind fun _ => (runTest_blind _ _).bind fun _ => .pure _

theorem regExchange_blind (P : Params) (address : Nat) (isWrite emptyIsZero : Bool)
    (payload : List Byte) : Blind (regExchange P address isWrite emptyIsZero payload) :=
  (detectWidths_blind _).bind fun _ => (Blind.takeOperands _).bind fun _ =>
  (regTransaction_blind _ _ _ _).bind fun _ => .pure _

/-! ### CFGSEQ -/

theorem setOpcode_blind (opcode : Byte) : Blind (setOpcode opcode) := .update fun _ => rfl

theorem setPhase_blind (p : Nat) : Blind (setPhase p) := .update fun _ => rfl

theorem setPattern_blind (p : Nat) : Blind (setPattern p) := .update fun _ => rfl

theorem setIsc_blind (isc : Bool) : Blind (setIsc isc) := .update fun _ => rfl

theorem sessionBegin_blind : Blind sessionBegin := .update fun _ => rfl

theorem indicator_blind (p : Nat) : Blind (indicator p) := (Blind.update fun _ => rfl).primitive

theorem warn_blind (w : Warning) : Blind (warn w) := (Blind.update fun _ => rfl).primitive

theorem delay_blind (d : Nat) : Blind (delay d) := (Blind.update fun _ => rfl).primitive

theorem now_blind : Blind now :=
  ((Blind.observe (read := fun s => s.time + clockAdvance s) fun _ => rfl).bind fun t =>
    (Blind.update (change := fun s => emit (.clockRead t)
      { s with time := t, clock := s.clock.tail, clockCount := s.clockCount + 1 })
      fun _ => rfl).bind fun _ => .pure t).primitive

theorem readStatus_blind (P : Params) : Blind (readStatus P) :=
  (setOpcode_blind _).bind fun _ => (shiftInstruction_blind _ _ _).bind fun _ =>
  (shiftData_blind _ _ _).bind fun _ => .pure _

theorem warnViolations_blind (status : Word32) (found : List Violation) :
    Blind (warnViolations status found) := by
  induction found with
  | nil => exact .pure _
  | cons v found ih => exact (warn_blind _).bind fun _ => ih

theorem judgeViolations_blind (status : Word32) (errcode : BitVec 3) (continueAnyway : Bool)
    (found : List Violation) : Blind (judgeViolations status errcode continueAnyway found) := by
  cases found with
  | nil => exact .pure _
  | cons => exact .ite (warnViolations_blind _ _) (.raise _)

theorem checkStatus_blind (P : Params) (check : StatusCheck) : Blind (checkStatus P check) :=
  (readStatus_blind _).bind fun _ => (Blind.runIf (warn_blind _)).bind fun _ =>
  judgeViolations_blind _ _ _ _

theorem shiftOperand_blind (operand : Option BitVector) : Blind (shiftOperand operand) := by
  cases operand with
  | none => exact .pure _
  | some v => exact (shiftData_blind _ _ _).bind fun _ => .pure _

theorem shiftCheck_blind (P : Params) (check : Option StatusCheck) : Blind (shiftCheck P check) := by
  cases check with
  | none => exact .pure _
  | some c => exact checkStatus_blind _ _

theorem execCommand_blind (P : Params) (opc : Byte) (operand : Option BitVector) (idle : Nat)
    (idleState : TapState) (check : Option StatusCheck) :
    Blind (execCommand P opc operand idle idleState check) :=
  (setOpcode_blind _).bind fun _ => (shiftInstruction_blind _ _ _).bind fun _ =>
  (shiftOperand_blind _).bind fun _ => (runTest_blind _ _).bind fun _ =>
  (shiftCheck_blind _ _).bind fun _ => .pure _

theorem pollLoop_blind {P : Params} {poll : Engine Bool} (h : Blind poll) (deadline : Nat)
    (awaited : Byte) (polls : Nat) : Blind (pollLoop P poll deadline awaited polls) := by
  induction polls with
  | zero => exact .abortWith _
  | succ polls ih =>
    exact h.bind fun _ => .ite (.pure _) <| now_blind.bind fun _ => .ite (.raise _) <|
      (delay_blind _).bind fun _ => ih

theorem pollUntil_blind {P : Params} {poll : Engine Bool} (h : Blind poll) (timeout : Nat)
    (awaited : Byte) : Blind (pollUntil P timeout awaited poll) :=
  now_blind.bind fun _ => pollLoop_blind h _ _ _

theorem waitForCompletion_blind (P : Params) (timeout : Nat) :
    Blind (waitForCompletion P timeout) :=
  (Blind.observe fun _ => rfl).bind fun _ =>
  pollUntil_blind ((readStatus_blind _).bind fun _ => .pure _) _ _

theorem restart_blind (P : Params) : Blind (restart P) := by
  unfold restart
  cases P.restartMode with
  | refresh => exact (execCommand_blind _ _ _ _ _ _).bind fun _ => .pure _
  | programPin => exact (Blind.update fun _ => rfl).primitive

theorem preconfigure_blind (P : Params) : Blind (preconfigure P) :=
  (execCommand_blind _ _ _ _ _ _).bind fun _ => .pure _

theorem readPartId_blind (P : Params) : Blind (readPartId P) :=
  (setOpcode_blind _).bind fun _ => (shiftInstruction_blind _ _ _).bind fun _ =>
  (shiftData_blind _ _ _).bind fun _ => .ite (.raise _) <|
  (Blind.update fun _ => rfl).bind fun _ => .pure _

theorem iscEnable_blind (P : Params) : Blind (iscEnable P) :=
  (setIsc_blind _).bind fun _ => (execCommand_blind _ _ _ _ _ _).bind fun _ => .pure _

theorem iscErase_blind (P : Params) : Blind (iscErase P) :=
  (execCommand_blind _ _ _ _ _ _).bind fun _ => .pure _

theorem iscDisable_blind (P : Params) (check : Option StatusCheck) : Blind (iscDisable P check) :=
  (setIsc_blind _).bind fun _ => (execCommand_blind _ _ _ _ _ _).bind fun _ => .pure _

theorem eraseAndWait_blind (P : Params) : Blind (eraseAndWait P) :=
  (iscErase_blind _).bind fun _ => (waitForCompletion_blind _ _).bind fun _ =>
  checkStatus_blind _ _

theorem initAddress_blind (P : Params) : Blind (initAddress P) :=
  (execCommand_blind _ _ _ _ _ _).bind fun _ => .pure _

theorem burst_blind (P : Params) (bitstream : List Byte) : Blind (burst P bitstream) :=
  (setOpcode_blind _).bind fun _ => (shiftInstruction_blind _ _ _).bind fun _ =>
  (shiftData_blind _ _ _).bind fun _ => .pure _

theorem judgeTeardown_blind (failed : Bool) (e : Option (Raise × ErrorRecord)) :
    Blind (judgeTeardown failed e) := by
  cases e with
  | none => exact .pure _
  | some e => exact .ite ((warn_blind _).bind fun _ => .pure _) (.pure _)

theorem teardown_blind (P : Params) (failed : Bool) : Blind (teardown P failed) :=
  (Blind.attempt <| (Blind.observe fun _ => rfl).bind fun _ =>
    (Blind.runIf (iscDisable_blind _ _)).bind fun _ => moveToState_blind _).bind fun _ =>
  (judgeTeardown_blind _ _).bind fun _ => (Blind.update fun _ => rfl).bind fun _ => .pure _

theorem raisePending_blind (pending : Option (Raise × ErrorRecord)) :
    Blind (raisePending pending) := by
  cases pending with
  | none => exact .pure _
  | some e => exact .abortWith _

theorem sessionEnd_blind (P : Params) (phase : Nat) (failed : Bool) :
    Blind (sessionEnd P phase failed) :=
  (setPhase_blind _).bind fun _ => (teardown_blind _ _).bind fun _ => raisePending_blind _

theorem configureBody_blind (P : Params) (bitstream : List Byte) :
    Blind (configureBody P bitstream) :=
  (setPhase_blind _).bind fun _ => (readPartId_blind _).bind fun _ =>
  (setPhase_blind _).bind fun _ => (restart_blind _).bind fun _ => (delay_blind _).bind fun _ =>
  (setPhase_blind _).bind fun _ => (preconfigure_blind _).bind fun _ =>
  (setPhase_blind _).bind fun _ => (iscEnable_blind _).bind fun _ =>
  (setPhase_blind _).bind fun _ => (eraseAndWait_blind _).bind fun _ =>
  (setPhase_blind _).bind fun _ => (initAddress_blind _).bind fun _ =>
  (burst_blind _ _).bind fun _ => (setPhase_blind _).bind fun _ => (runTest_blind _ _).bind fun _ =>
  (setPhase_blind _).bind fun _ => (checkStatus_blind _ _).bind fun _ =>
  (setPhase_blind _).bind fun _ => iscDisable_blind _ _

theorem configureEnd_blind (P : Params) (failed : Bool) : Blind (configureEnd P failed) :=
  (setPhase_blind _).bind fun _ => (teardown_blind _ _).bind fun _ =>
  (indicator_blind _).bind fun _ => (setPattern_blind _).bind fun _ => raisePending_blind _

theorem configure_blind (P : Params) (bitstream : List Byte) : Blind (configure P bitstream) :=
  (Blind.refuseIf _ _).bind fun _ => sessionBegin_blind.bind fun _ =>
  (indicator_blind _).bind fun _ => (setPattern_blind _).bind fun _ =>
  ((configureBody_blind _ _).withCleanup (configureEnd_blind _)).bind fun _ =>
  .observe fun _ => rfl

/-- R195, R196: a configuration session around a body. -/
theorem session_blind {P : Params} {phase : Nat} {body : Engine α} (h : Blind body) :
    Blind (sessionBegin >>= fun _ => withCleanup body (sessionEnd P phase)) :=
  sessionBegin_blind.bind fun _ => h.withCleanup (sessionEnd_blind _ _)

theorem unconfigure_blind (P : Params) : Blind (unconfigure P) :=
  session_blind <| (setPhase_blind _).bind fun _ => (restart_blind _).bind fun _ =>
  (delay_blind _).bind fun _ => (setPhase_blind _).bind fun _ => (preconfigure_blind _).bind fun _ =>
  (setPhase_blind _).bind fun _ => (iscEnable_blind _).bind fun _ =>
  (setPhase_blind _).bind fun _ => (eraseAndWait_blind _).bind fun _ =>
  (setPhase_blind _).bind fun _ => iscDisable_blind _ _

theorem triggerReconfiguration_blind (P : Params) : Blind (triggerReconfiguration P) :=
  (restart_blind _).bind fun _ => runTest_blind _ _

/-! ### SPIB -/

theorem enterBackgroundSpi_blind (P : Params) : Blind (enterBackgroundSpi P) :=
  (execCommand_blind _ _ _ _ _ _).bind fun _ => .update fun _ => rfl

theorem bgSpiTransfer_blind (out : List Byte) : Blind (bgSpiTransfer out) :=
  (setOpcode_blind _).bind fun _ => (shiftData_blind _ _ _).bind fun _ => .pure _

theorem flashStatus_blind (P : Params) : Blind (flashStatus P) :=
  (bgSpiTransfer_blind _).bind fun _ => .pure _

theorem flashWaitIdle_blind (P : Params) (timeout : Nat) (awaited : Byte) :
    Blind (flashWaitIdle P timeout awaited) :=
  pollUntil_blind ((flashStatus_blind _).bind fun _ => .pure _) _ _

theorem flashWriteEnable_blind (P : Params) : Blind (flashWriteEnable P) :=
  (bgSpiTransfer_blind _).bind fun _ =>
  pollUntil_blind ((flashStatus_blind _).bind fun _ => .pure _) _ _

theorem flashModify_blind (P : Params) (frame : List Byte) (timeout : Nat) (awaited : Byte) :
    Blind (flashModify P frame timeout awaited) :=
  (flashWriteEnable_blind _).bind fun _ => (bgSpiTransfer_blind _).bind fun _ =>
  flashWaitIdle_blind _ _ _

theorem writePages_blind (P : Params) (bitstream : List Byte) (offset k count : Nat) :
    Blind (writePages P bitstream offset k count) := by
  induction count generalizing k with
  | zero => exact .pure _
  | succ count ih => exact (flashModify_blind _ _ _ _).bind fun _ => ih _

theorem readPages_blind (P : Params) (offset length k count : Nat) :
    Blind (readPages P offset length k count) := by
  induction count generalizing k with
  | zero => exact .pure _
  | succ count ih => exact (bgSpiTransfer_blind _).bind fun _ => (ih _).bind fun _ => .pure _

/-- R221, R222, R223, R224, R226: a flash operation's first two phases, and the rest. -/
theorem backgroundSpi_blind {P : Params} {rest : Engine α} (h : Blind rest) :
    Blind (do setPhase 1; enterBackgroundSpi P; setPhase 2; rest) :=
  (setPhase_blind _).bind fun _ => (enterBackgroundSpi_blind _).bind fun _ =>
  (setPhase_blind _).bind fun _ => h

theorem readFlashId_blind (P : Params) : Blind (readFlashId P) :=
  sessionBegin_blind.bind fun _ => ((backgroundSpi_blind (bgSpiTransfer_blind _)).withCleanup
    (sessionEnd_blind _ _)).bind fun _ => .pure _

theorem readFlashUid_blind (P : Params) : Blind (readFlashUid P) :=
  sessionBegin_blind.bind fun _ => ((backgroundSpi_blind (bgSpiTransfer_blind _)).withCleanup
    (sessionEnd_blind _ _)).bind fun _ => .pure _

theorem eraseFlash_blind (P : Params) : Blind (eraseFlash P) :=
  session_blind <| backgroundSpi_blind <| (flashWriteEnable_blind _).bind fun _ =>
  (setPhase_blind _).bind fun _ => (bgSpiTransfer_blind _).bind fun _ => flashWaitIdle_blind _ _ _

theorem flashBody_blind (P : Params) (op : FlashWrite) : Blind (flashBody P op) :=
  backgroundSpi_blind <| (Blind.runIf (flashModify_blind _ _ _ _)).bind fun _ =>
  (setPhase_blind _).bind fun _ => (Blind.runIf (flashModify_blind _ _ _ _)).bind fun _ =>
  (setPhase_blind _).bind fun _ => writePages_blind _ _ _ _ _

theorem flashWrite_blind (P : Params) (op : FlashWrite) : Blind (flashWrite P op) :=
  (Blind.refuseIf _ _).bind fun _ => (Blind.refuseIf _ _).bind fun _ =>
  sessionBegin_blind.bind fun _ => ((flashBody_blind _ _).withCleanup (sessionEnd_blind _ _)).bind
    fun _ => (setPhase_blind _).bind fun _ => triggerReconfiguration_blind _

theorem readFlash_blind (P : Params) (offset length : Nat) : Blind (readFlash P offset length) :=
  (Blind.refuseIf _ _).bind fun _ => session_blind <| backgroundSpi_blind <| readPages_blind _ _ _ _ _

theorem setBitbang_blind (enable : Bool) : Blind (setBitbang enable) := .update fun _ => rfl

theorem spiTunneled_blind (P : Params) (data : List Byte) : Blind (spiTunneled P data) :=
  (shiftInstruction_blind _ _ _).bind fun _ => (setBitbang_blind _).bind fun _ =>
  ((shiftData_blind _ _ _).withCleanup fun _ => setBitbang_blind _).bind fun _ => .pure _

theorem spiExchange_blind (csInverted : Bool) (out : List Byte) :
    Blind (spiExchange csInverted out) := fun s s' h => by
  have hanswer : spiAnswer s = spiAnswer s' :=
    read_eq_of_withoutRecords_eq (fun _ => rfl) h
  have hnext : withoutRecords (nextSpi s) = withoutRecords (nextSpi s') :=
    withoutRecords_congr nextSpi (fun _ => rfl) h
  rw [spiExchange, spiExchange, hanswer]
  cases spiAnswer s' with
  | bytes received =>
    simp only
    split
    · exact .ok received (withoutRecords_congr (emit (.spiDirect csInverted out received))
        (fun _ => rfl) hnext)
    · exact Blind.raise _ _ _ hnext
  | _ => exact Blind.raise _ _ _ hnext

theorem spiDirect_blind (csInverted : Bool) (out : List Byte) : Blind (spiDirect csInverted out) :=
  (spiExchange_blind _ _).primitive

theorem spiTransfer_blind (P : Params) (data : List Byte) (invertCs : Bool) :
    Blind (spiTransfer P data invertCs) :=
  (Blind.refuseIf _ _).bind fun _ => by
    cases P.spiVariant with
    | tunneled => exact spiTunneled_blind _ _
    | direct => exact spiDirect_blind _ _

theorem spiRegTransaction_blind (P : Params) (address : Nat) (isWrite : Bool) (value : Word32) :
    Blind (spiRegTransaction P address isWrite value) :=
  (Blind.refuseIf _ _).bind fun _ => (Blind.refuseIf _ _).bind fun _ =>
  (spiTransfer_blind _ _ _).bind fun _ => .pure _

/-! ### Commands -/

/-- No part of a command reads the records. -/
theorem blind_law : CommandLaw Blind where
  pure := .pure
  bind := .bind
  raise := .raise
  readOwner := .observe fun _ => rfl
  openSession := .update fun _ => rfl
  releaseSession := .update fun _ => rfl
  setBitbang := setBitbang_blind
  tapReset := tapReset_blind
  moveToState := moveToState_blind
  shiftInstruction := shiftInstruction_blind
  shiftDataOrdered := shiftDataOrdered_blind
  runTest := runTest_blind
  enumerate := enumerate_blind _
  indicator := indicator_blind
  setPattern := setPattern_blind
  detectWidths := detectWidths_blind _
  regExchange := regExchange_blind _
  configure := configure_blind _
  unconfigure := unconfigure_blind _
  triggerReconfiguration := triggerReconfiguration_blind _
  readFlashId := readFlashId_blind _
  readFlashUid := readFlashUid_blind _
  eraseFlash := eraseFlash_blind _
  flashWrite := flashWrite_blind _
  readFlash := readFlash_blind _
  spiTransfer := spiTransfer_blind _
  spiRegTransaction := spiRegTransaction_blind _
  readPartId := readPartId_blind _
  readStatus := readStatus_blind _
  iscEnable := iscEnable_blind _
  iscDisable := iscDisable_blind _ _
  iscErase := iscErase_blind _
  refresh := execCommand_blind _ _ _ _ _ _
  preconfigure := preconfigure_blind _
  initAddress := initAddress_blind _
  burst := burst_blind _
  enterBackgroundSpi := enterBackgroundSpi_blind _
  metaShift := metaShift_blind
  spiTunneled := spiTunneled_blind _
  bgSpiTransfer := bgSpiTransfer_blind

/-- Operations that end alike make commands that answer alike. -/
theorem Alike.answers {r r' : EStateM.Result Abort State (List Byte)} {t t' : State}
    (h : Alike r r') (hr : commandOutcome r = .next t) (hr' : commandOutcome r' = .next t') :
    t.hostResp = t'.hostResp ∧ withoutRecords t = withoutRecords t' := by
  cases h with
  | @ok data u u' hu =>
    cases hr
    cases hr'
    exact ⟨rfl, withoutRecords_congr (finishCommand data) (fun _ => rfl) hu⟩
  | @error e u u' hu =>
    cases e with
    | raised r record =>
      cases hr
      cases hr'
      exact ⟨rfl, withoutRecords_congr (takeError record) (fun _ => rfl) hu⟩
    | stuck => cases hr
    | reset =>
      cases hr
      cases hr'
      exact ⟨rfl, withoutRecords_congr assertReset (fun _ => rfl) hu⟩

/-- Settles O60: each command is one cycle of an operation that no record reaches. -/
theorem recordsDoNotMatter : Obligations.RecordsDoNotMatter := by
  intro i s s' h
  obtain ⟨op, body, he, hbody⟩ := blind_law.runs i
  obtain ⟨-, -, t, ht, -, -⟩ := exec_ends i s
  obtain ⟨-, -, t', ht', -, -⟩ := exec_ends i s'
  have hbegin : withoutRecords (beginCommand op s) = withoutRecords (beginCommand op s') :=
    withoutRecords_congr (beginCommand op) (fun _ => rfl) h
  have halike : Alike (body (beginCommand op s)) (body (beginCommand op s')) := hbody _ _ hbegin
  exact ⟨t, t', ht, ht', halike.answers ((he s).symm.trans ht) ((he s').symm.trans ht')⟩

end Sys2Proof.Machine
end

section
/-! Decoding and encoding (spec/30_encoding.md R80, R82, R86, R94) undo each other: the host frame's
layout on the decoder's side, the rows of the two wire tables, and the statements about them. -/

namespace Sys2Proof

variable {P : Params} {i : Instr}

/-! ### The host frame -/

/-- R80, R11: the length field of a payload that fits it. -/
theorem be4_payloadLength {payload : List Byte} (h : payload.length < 2 ^ 32) :
    be4 (BitVec.ofNat 32 payload.length) = beBytes 4 payload.length := by
  rw [be4_eq, BitVec.toNat_ofNat, Nat.mod_eq_of_lt h]

/-- R80: a host frame, byte by byte. -/
theorem encodeHost_eq (op flags : Byte) (a b : Word32) {payload : List Byte}
    (h : payload.length < 2 ^ 32) :
    encodeHost op ⟨flags, a, b, payload⟩ = ⟨.host,
      [op, flags] ++ beBytes 4 a.toNat ++ beBytes 4 b.toNat ++ beBytes 4 payload.length
        ++ payload⟩ := by
  simp [encodeHost, be4_payloadLength h, be4_eq]

/-- R80: a byte string with a whole header. -/
theorem exists_hostHeader {bytes : List Byte} (h : 14 ≤ bytes.length) :
    ∃ op flags a3 a2 a1 a0 b3 b2 b1 b0 p3 p2 p1 p0 payload, bytes =
      op :: flags :: a3 :: a2 :: a1 :: a0 :: b3 :: b2 :: b1 :: b0 :: p3 :: p2 :: p1 :: p0
        :: payload := by
  match bytes, h with
  | op :: flags :: a3 :: a2 :: a1 :: a0 :: b3 :: b2 :: b1 :: b0 :: p3 :: p2 :: p1 :: p0
      :: payload, _ => exact ⟨_, _, _, _, _, _, _, _, _, _, _, _, _, _, _, rfl⟩

/-- R80, R96: a frame whose length is not the one its header gives. -/
theorem decodeHost_badFrame {bytes : List Byte}
    (h : bytes.length < 14 ∨ bytes.length ≠ 14 + fromBe ((bytes.drop 10).take 4)) :
    decodeHost bytes = .error (.badFrame bytes.head?) := by
  unfold decodeHost
  split
  · next p3 p2 p1 p0 payload =>
    have hlen : payload.length ≠ (ofBe4 p3 p2 p1 p0).toNat := by
      simp [← ofBe4_toNat] at h
      omega
    rw [if_neg hlen]
    rfl
  · rfl
  · rfl

/-- R82: the 27 operation codes. -/
def hostCodes : List Byte :=
  [0x01#8, 0x02#8, 0x03#8, 0x04#8, 0x05#8, 0x06#8, 0x07#8, 0x08#8, 0x09#8, 0x0A#8, 0x0B#8,
    0x10#8, 0x11#8, 0x12#8, 0x13#8, 0x20#8, 0x21#8, 0x22#8, 0x30#8, 0x31#8, 0x32#8, 0x33#8, 0x34#8,
    0x40#8, 0x41#8, 0x42#8, 0x43#8]

/-- R82: no other byte names an operation. -/
theorem hostOperation_eq_none {op : Byte} (h : op ∉ hostCodes) : hostOperation op = none := by
  have hop : op = BitVec.ofNat 8 op.toNat := by simp
  unfold hostOperation
  split
  case h_28 => rfl
  all_goals
    next hcode =>
      rw [hcode] at hop
      exact absurd (hop ▸ by decide) h

/-- R80, R96: a frame of the right length whose operation code is outside the table. -/
theorem decodeHost_unknownOp {op : Byte} {bytes : List Byte} (hop : hostOperation op = none)
    (hlong : 13 ≤ bytes.length) (hlen : bytes.length = 13 + fromBe ((bytes.drop 9).take 4)) :
    decodeHost (op :: bytes) = .error (.unknownOp op) := by
  obtain ⟨op', flags, a3, a2, a1, a0, b3, b2, b1, b0, p3, p2, p1, p0, payload, hbytes⟩ :=
    exists_hostHeader (bytes := op :: bytes) (Nat.succ_le_succ hlong)
  obtain ⟨rfl, rfl⟩ := List.cons.inj hbytes
  have hpayload : payload.length = (ofBe4 p3 p2 p1 p0).toNat := by
    simp [← ofBe4_toNat] at hlen
    omega
  simp only [decodeHost, hop, if_pos hpayload]

/-! ### The rows of the wire tables -/

theorem dataOperand_present {command : List Byte → Instr} {data : List Byte}
    (h : dataPresent data = true) : dataOperand command data = .ok (command data) := by
  have hne : data ≠ [] := by simpa [dataPresent] using h
  rw [dataOperand, if_neg hne]

/-- R86, log 6: `OPC_SPI_DEBUG` is read as itself where no other row has its opcode. -/
theorem decodeJtag_spiDebug (hfixed : P.opcSpiDebug ∉ fixedJtagOpcodes P)
    (hdata : P.opcSpiDebug ∉ dataJtagOpcodes P) (data : List Byte) :
    decodeJtag P (P.opcSpiDebug :: data) = dataOperand .opcSpiDebug data := by
  simp only [fixedJtagOpcodes, dataJtagOpcodes, List.mem_cons, List.not_mem_nil, or_false,
    not_or] at hfixed hdata
  simp [decodeJtag, hfixed, hdata]

/-- R94: a page of data after its address. -/
theorem decodeWritePage_be3 (addr : BitVec 24) {data : List Byte}
    (h : pageCount data.length = true) :
    decodeWritePage (be3 addr ++ data) = .ok (.flWritePage addr data) := by
  have hcount : 1 ≤ data.length ∧ data.length ≤ Config.pageSize := by simpa [pageCount] using h
  simp [decodeWritePage, be3, hcount]

/-- R94: the dummy bytes of a page read after its address. -/
theorem decodeReadPage_be3 (addr : BitVec 24) {count : Nat} (h : pageCount count = true) :
    decodeReadPage (be3 addr ++ List.replicate count 0x00#8) = .ok (.flReadPage addr count) := by
  have hcount : 1 ≤ count ∧ count ≤ Config.pageSize := by simpa [pageCount] using h
  simp [decodeReadPage, be3, hcount]

/-! ### The statements -/

/-- Settles O6, row by row: the host header, the fixed rows of the wire tables, and those with
operands of their own. -/
theorem decodeOfEncode : Obligations.DecodeOfEncode := by
  intro spiDebug i hw hspi
  cases i with
  | opcReadId | opcLscReadStatus | opcIscEnable | opcIscDisable | opcIscErase | opcLscRefresh
  | opcPreconf | opcLscInitAddress | opcLscEnterBackgroundSpi | opcVerifyId => rfl
  | flJedecId | flWriteEnable | flChipErase | flReadStatus | flWriteStatus | flReadUid => rfl
  | opcLscBitstreamBurst data | opcMetaIr data | opcMetaDr data =>
    exact dataOperand_present hw
  | opcSpiDebug data =>
    obtain ⟨hfixed, hdata⟩ := hspi data rfl
    exact (decodeJtag_spiDebug hfixed hdata data).trans (dataOperand_present hw)
  | flWritePage addr data => exact decodeWritePage_be3 addr hw
  | flReadPage addr count => exact decodeReadPage_be3 addr hw
  | _ => exact decode_encodeHost _ rfl hw

/-- Settles O7: a decoded host frame is the frame of its own code and fields. -/
theorem encodeOfDecodedHostFrame : Obligations.EncodeOfDecodedHostFrame := by
  intro bytes i h
  obtain ⟨op, command, f, hop, rfl, -, hframe⟩ := decodeHost_ok h
  rw [hostOperation_encode hop, hframe]

/-- Settles O5: two rows of the wire tables, and three host frames written out. -/
theorem decodedWords : Obligations.DecodedWords :=
  ⟨decode_encodeHost Config.params (op := opAcquire) (f := Machine.noFields) rfl rfl,
    decode_encodeHost Config.params (op := opShiftInstruction)
      (f := ⟨0x0D#8, 8#32, 0#32, [0xE0#8]⟩) rfl rfl,
    decode_encodeHost Config.params (op := opReadFlash) (f := ⟨0#8, 0x100#32, 3#32, []⟩) rfl rfl,
    rfl, decodeWritePage_be3 0x000100#24 (data := [0xA5#8]) rfl⟩

end Sys2Proof
end

section
/-! What a step does with the frame on the port: spec/30_encoding.md R96, R101. -/

namespace Sys2Proof.Machine

variable {s : State}

/-- R101: a frame that decodes to a command is run. -/
theorem step_runs {frame : CommandFrame} {i : Instr} (hreset : resetDue s = false)
    (hcmd : s.hostCmd = some frame) (h : decode Config.params frame = .ok i) :
    step s = exec i s := by simp [step, fetch, hreset, hcmd, h]

/-- R96: a frame that is no command is rejected. -/
theorem step_rejects {frame : CommandFrame} {e : DecodeError} (hreset : resetDue s = false)
    (hcmd : s.hostCmd = some frame) (h : decode Config.params frame = .error e) :
    step s = rejectFrame e s := by simp [step, fetch, hreset, hcmd, h]

/-- R291: with nothing on the port the engine waits. -/
theorem step_waits (hreset : resetDue s = false) (hcmd : s.hostCmd = none) : step s = .next s := by
  simp [step, fetch, hreset, hcmd]

/-- Settles O4: what is decoded has an encoding, and a step runs it. -/
theorem stepRunsDecodedCommand : Obligations.StepRunsDecodedCommand := by
  refine ⟨fun s frame i hreset hcmd h => ?_, fun s hreset hcmd => step_waits hreset hcmd⟩
  exact ⟨decode_wellFormed h, step_runs hreset hcmd h⟩

/-- Settles O8: the fields in the order of the header, and the two ways to miss the length. -/
theorem hostFrameLayout : Obligations.HostFrameLayout := by
  refine ⟨fun op flags a b payload command hlen hop => ?_, fun s bytes hreset hcmd hlen => ?_⟩
  · rw [← encodeHost_eq op flags a b hlen]
    exact decode_encodeHost Config.params hop (by simpa [HostFields.encodable] using hlen)
  · exact step_rejects hreset hcmd (decodeHost_badFrame hlen)

/-- Settles O9: the code is outside the table, and the length is right. -/
theorem unknownOperationRefused : Obligations.UnknownOperationRefused := by
  intro s op bytes hop hreset hcmd hlong hlen
  exact step_rejects hreset hcmd
    (decodeHost_unknownOp (hostOperation_eq_none hop) hlong hlen)

end Sys2Proof.Machine
end

section
/-! Host commands that are refused before anything runs, spec/30_encoding.md R83, R85, R96 and
spec/60_exceptions.md R269: what each operand reader refuses, and what a refusing operation makes of
its command. -/

namespace Sys2Proof.Machine

variable {α β : Type} {d : RefusedDetail} {s : State} {f : HostFields} {i : Instr} {op : Byte}

/-! ### Operations that refuse -/

/-- An operation that refuses at once, from every state, and changes nothing. -/
def Refuses (d : RefusedDetail) (m : Engine α) : Prop :=
  ∀ s, m s = .error (.raised (.refused d) (errorRecord (.refused d) s)) s

theorem Refuses.bind {m : Engine α} (h : Refuses d m) (g : α → Engine β) :
    Refuses d (m >>= g) := fun s => bind_error (h s)

theorem Refuses.refuseIf {condition : Bool} (h : condition = true) :
    Refuses d (refuseIf condition d) := fun s => h ▸ refuseIf_true d s

/-- A check that passes, then an operation that refuses. -/
theorem Refuses.pass {condition : Bool} {d' : RefusedDetail} {m : Engine α} (h : Refuses d m)
    (hc : condition = false) : Refuses d (Machine.refuseIf condition d' >>= fun _ => m) :=
  fun s => (bind_ok (hc ▸ refuseIf_false d' s)).trans (h s)

/-- R269: the operand test comes first. -/
theorem Refuses.operands {operands : Operand α} {body : α → Engine β} (h : operands = .error d) :
    Refuses d (takeOperands operands >>= body) :=
  Refuses.bind (fun s => h ▸ takeOperands_error d s) body

/-- Good operands, then an operation that refuses them. -/
theorem Refuses.onOperands {operands : Operand α} {body : α → Engine β} {x : α}
    (h : operands = .ok x) (hb : Refuses d (body x)) : Refuses d (takeOperands operands >>= body) :=
  fun s => (bind_ok (h ▸ takeOperands_ok x s)).trans (hb s)

/-- R264, R267: in a session, a refusing operation makes its command's refusal. -/
theorem Refuses.command {body : Engine (List Byte)} (h : Refuses d body) (ho : s.tapOwner = true) :
    ownedCommand op body s = .next (takeError (refusal (some op) d) s) :=
  ownedCommand_refused ho (h _)

/-! ### Fields an operation does not define

Each reader's test compares every field with the bits R83's table gives the operation, so a frame with
an undefined field fails it. -/

/-- R83: a reader whose test fails on every frame with an undefined field. -/
theorem operandIf_violated {legal : Bool} {x : α} {u : FieldUse} (h : u.violatedBy f)
    (hl : legal = true → ¬ u.violatedBy f) : operandIf legal x = .error .badOperand :=
  operandIf_false (Bool.eq_false_iff.mpr fun ht => hl ht h)

theorem noOperands_violated (h : FieldUse.violatedBy ⟨0x00#8, 0#32, 0#32, false⟩ f) :
    noOperands f = .error .badOperand :=
  operandIf_violated h (by simp +contextual [FieldUse.violatedBy])

/-- A 4-bit scalar has no bit above its four. -/
theorem and_not_fifteen {a : Word32} (h : a.toNat < 16) : a &&& ~~~0xF#32 = 0#32 := by
  refine BitVec.eq_of_toNat_eq ?_
  have hlt : ∀ n < 16, n &&& 4294967280 = 0 := by decide
  simpa using hlt _ h

theorem moveToStateOperands_violated (h : FieldUse.violatedBy ⟨0x00#8, 0xF#32, 0#32, false⟩ f) :
    moveToStateOperands f = .error .badOperand :=
  operandIf_violated h (by
    simp only [Bool.and_eq_true, decide_eq_true_eq, and_imp]
    intro hflags ha hb hp
    simp [FieldUse.violatedBy, hflags, hb, hp, and_not_fifteen ha, -BitVec.reduceNot])

theorem shiftInstructionOperands_violated
    (h : FieldUse.violatedBy ⟨0x0F#8, 0xFFFFFFFF#32, 0#32, true⟩ f) :
    shiftInstructionOperands f = .error .badOperand :=
  operandIf_violated h (by simp +contextual [FieldUse.violatedBy, flagsWithin])

theorem shiftDataOperands_violated
    (h : FieldUse.violatedBy ⟨0x3F#8, 0xFFFFFFFF#32, 0#32, true⟩ f) :
    shiftDataOperands f = .error .badOperand :=
  operandIf_violated h (by simp +contextual [FieldUse.violatedBy, flagsWithin])

theorem runTestOperands_violated
    (h : FieldUse.violatedBy ⟨0x0F#8, 0xFFFFFFFF#32, 0#32, false⟩ f) :
    runTestOperands f = .error .badOperand :=
  operandIf_violated h (by simp +contextual [FieldUse.violatedBy, flagsWithin])

theorem forceBitbangOperands_violated (h : FieldUse.violatedBy ⟨0x01#8, 0#32, 0#32, false⟩ f) :
    forceBitbangOperands f = .error .badOperand :=
  operandIf_violated h (by simp +contextual [FieldUse.violatedBy, flagsWithin])

theorem scalarOperand_violated (h : FieldUse.violatedBy ⟨0x00#8, 0xFFFFFFFF#32, 0#32, false⟩ f) :
    scalarOperand f = .error .badOperand :=
  operandIf_violated h (by simp +contextual [FieldUse.violatedBy])

theorem regTransactionOperands_violated
    (h : FieldUse.violatedBy ⟨0x01#8, 0xFFFFFFFF#32, 0#32, true⟩ f) :
    regTransactionOperands f = .error .badOperand :=
  operandIf_violated h (by simp +contextual [FieldUse.violatedBy, flagsWithin])

theorem regWriteOperands_violated
    (h : FieldUse.violatedBy ⟨0x00#8, 0xFFFFFFFF#32, 0#32, true⟩ f) :
    regWriteOperands f = .error .badOperand :=
  operandIf_violated h (by simp +contextual [FieldUse.violatedBy])

theorem configureOperands_violated (h : FieldUse.violatedBy ⟨0x00#8, 0#32, 0#32, true⟩ f) :
    configureOperands f = .error .badOperand :=
  operandIf_violated h (by simp +contextual [FieldUse.violatedBy])

theorem flashOperands_violated (h : FieldUse.violatedBy ⟨0x03#8, 0xFFFFFFFF#32, 0#32, true⟩ f) :
    flashOperands f = .error .badOperand :=
  operandIf_violated h (by simp +contextual [FieldUse.violatedBy, flagsWithin])

theorem readFlashOperands_violated
    (h : FieldUse.violatedBy ⟨0x00#8, 0xFFFFFFFF#32, 0xFFFFFFFF#32, false⟩ f) :
    readFlashOperands f = .error .badOperand :=
  operandIf_violated h (by simp +contextual [FieldUse.violatedBy])

theorem spiTransferOperands_violated (h : FieldUse.violatedBy ⟨0x01#8, 0#32, 0#32, true⟩ f) :
    spiTransferOperands f = .error .badOperand :=
  operandIf_violated h (by simp +contextual [FieldUse.violatedBy, flagsWithin])

theorem spiRegTransactionOperands_violated
    (h : FieldUse.violatedBy ⟨0x01#8, 0xFFFFFFFF#32, 0xFFFFFFFF#32, false⟩ f) :
    spiRegTransactionOperands f = .error .badOperand :=
  operandIf_violated h (by simp +contextual [FieldUse.violatedBy, flagsWithin])

theorem spiRegWriteOperands_violated
    (h : FieldUse.violatedBy ⟨0x00#8, 0xFFFFFFFF#32, 0xFFFFFFFF#32, false⟩ f) :
    spiRegWriteOperands f = .error .badOperand :=
  operandIf_violated h (by simp +contextual [FieldUse.violatedBy])

/-- R101: the operation code of a host command is byte 0 of its frame. -/
theorem operationCode_host (h : encode Config.params i = encodeHost op f) :
    operationCode i = some op := by simp [operationCode, h, encodeHost]

/-- R83, R269: in a session, a command whose reader refuses its operands. -/
theorem exec_badOperand {operands : Operand α} {body : α → Engine (List Byte)}
    (hcode : encode Config.params i = encodeHost op f)
    (he : exec i s = ownedCommand op (takeOperands operands >>= body) s)
    (ho : s.tapOwner = true) (h : operands = .error .badOperand) :
    exec i s = .next (takeError (refusal (operationCode i) .badOperand) s) := by
  rw [operationCode_host hcode, he]
  exact (Refuses.operands h).command ho

/-- R140, R269: `ACQUIRE` tests its operands where no session is open. -/
theorem acquire_badOperand (ho : s.tapOwner = false) (h : noOperands f = .error .badOperand) :
    exec (.acquire f) s = .next (takeError (refusal (some opAcquire) .badOperand) s) := by
  have he : exec (.acquire f) s = commandOutcome ((do
      refuseIf s.tapOwner .busy
      takeOperands (noOperands f)
      update sessionOpened
      pure []) (beginCommand (some opAcquire) s)) := rfl
  rw [he, Refuses.pass (Refuses.operands h) ho]
  rfl

/-- R83: in a session, every command but `ACQUIRE` and `PLAY_PATTERN` tests its fields first. -/
theorem exec_undefinedField {u : FieldUse} (hu : fieldUse i = some (f, u)) (hv : u.violatedBy f)
    (hplay : ∀ g, i ≠ .playPattern g) (hacquire : ∀ g, i ≠ .acquire g) (ho : s.tapOwner = true) :
    exec i s = .next (takeError (refusal (operationCode i) .badOperand) s) := by
  cases i with
  | acquire g => exact absurd rfl (hacquire g)
  | playPattern g => exact absurd rfl (hplay g)
  | release | tapReset | enumerate | detectWidths | unconfigure | triggerReconfiguration
  | readFlashId | readFlashUid | eraseFlash =>
    cases hu; exact exec_badOperand rfl rfl ho (noOperands_violated hv)
  | moveToState => cases hu; exact exec_badOperand rfl rfl ho (moveToStateOperands_violated hv)
  | shiftInstruction =>
    cases hu; exact exec_badOperand rfl rfl ho (shiftInstructionOperands_violated hv)
  | shiftData => cases hu; exact exec_badOperand rfl rfl ho (shiftDataOperands_violated hv)
  | runTest => cases hu; exact exec_badOperand rfl rfl ho (runTestOperands_violated hv)
  | forceBitbang => cases hu; exact exec_badOperand rfl rfl ho (forceBitbangOperands_violated hv)
  | setIndicator | regRead | spiRegRead =>
    cases hu; exact exec_badOperand rfl rfl ho (scalarOperand_violated hv)
  | regTransaction =>
    cases hu; exact exec_badOperand rfl rfl ho (regTransactionOperands_violated hv)
  | regWrite => cases hu; exact exec_badOperand rfl rfl ho (regWriteOperands_violated hv)
  | configure => cases hu; exact exec_badOperand rfl rfl ho (configureOperands_violated hv)
  | flash => cases hu; exact exec_badOperand rfl rfl ho (flashOperands_violated hv)
  | readFlash => cases hu; exact exec_badOperand rfl rfl ho (readFlashOperands_violated hv)
  | spiTransfer => cases hu; exact exec_badOperand rfl rfl ho (spiTransferOperands_violated hv)
  | spiRegTransaction =>
    cases hu; exact exec_badOperand rfl rfl ho (spiRegTransactionOperands_violated hv)
  | spiRegWrite => cases hu; exact exec_badOperand rfl rfl ho (spiRegWriteOperands_violated hv)
  | _ => cases hu

/-! ### Mis-packed bit operands -/

/-- R85: the payload has another length, or a pad bit is set. -/
theorem packedWell_eq_false {len : Nat} {payload : List Byte}
    (h : payload.length ≠ (len + 7) / 8 ∨ 2 ^ len ≤ fromBe payload) :
    packedWell len payload = false := by
  rw [packedWell, Bool.and_eq_false_iff, decide_eq_false_iff_not, decide_eq_false_iff_not, not_lt]
  exact h

theorem shiftInstructionOperands_mispacked (h : packedWell f.a.toNat f.payload = false) :
    shiftInstructionOperands f = .error .badOperand := operandIf_false (by simp [h])

theorem shiftDataFlags_getLsbD_four (wire present : Bool) (t : TapState) :
    (shiftDataFlags wire present t).getLsbD 4 = present := by
  cases wire <;> cases present <;> cases t <;> rfl

theorem shiftDataFlags_getLsbD_five (wire present : Bool) (t : TapState) :
    (shiftDataFlags wire present t).getLsbD 5 = wire := by
  cases wire <;> cases present <;> cases t <;> rfl

/-- R85: a `SHIFT_DATA` payload that is not what its form asks for. -/
theorem shiftDataOperands_badPayload (wire present : Bool) (t : TapState) {length : Word32}
    {payload : List Byte}
    (h : dataPayloadWell (if wire then .wire else .native) present length.toNat payload = false) :
    shiftDataOperands ⟨shiftDataFlags wire present t, length, 0#32, payload⟩
      = .error .badOperand := by
  rw [shiftDataOperands]
  refine operandIf_false ?_
  simp only [shiftDataFlags_getLsbD_four, shiftDataFlags_getLsbD_five, h, Bool.and_false]

theorem shiftData_badPayload (wire present : Bool) (t : TapState) {length : Word32}
    {payload : List Byte} (ho : s.tapOwner = true)
    (h : dataPayloadWell (if wire then .wire else .native) present length.toNat payload = false) :
    exec (.shiftData ⟨shiftDataFlags wire present t, length, 0#32, payload⟩) s
      = .next (takeError (refusal (some opShiftData) .badOperand) s) :=
  (Refuses.operands (shiftDataOperands_badPayload wire present t h)).command ho

/-- Settles O11: the undefined fields by the command's reader, then the four payloads of a shift. -/
theorem undefinedFieldsRefused : Obligations.UndefinedFieldsRefused := by
  refine ⟨fun i s f u hu hv hplay hs => ?_, fun s t length payload ho => ⟨fun h => ⟨?_, ?_⟩,
    fun h => ?_, fun h order horder => ?_⟩⟩
  · obtain ⟨ho, hacquire⟩ | ⟨ho, g, rfl⟩ := hs
    · exact exec_undefinedField hu hv hplay hacquire ho
    · cases hu
      exact acquire_badOperand ho (noOperands_violated hv)
  · exact (Refuses.operands
      (shiftInstructionOperands_mispacked (packedWell_eq_false h))).command ho
  · exact shiftData_badPayload false true t ho (packedWell_eq_false h)
  · exact shiftData_badPayload true true t ho (decide_eq_false h)
  · have hempty : dataPayloadWell .native false length.toNat payload = false := decide_eq_false h
    obtain rfl | rfl : order = 0x00#8 ∨ order = 0x20#8 := by simpa using horder
    · exact shiftData_badPayload false false t ho hempty
    · exact shiftData_badPayload true false t ho hempty

/-! ### Empty shifts and payloads -/

/-- R148: an instruction shift of no bits. -/
theorem shiftInstruction_empty (opcode : Nat) (stateAfter : TapState) :
    Refuses .badLength (shiftInstruction opcode 0 stateAfter) := (Refuses.refuseIf rfl).bind _

/-- R149, R96: a data shift of no bits, or of no whole bytes in wire order. -/
theorem shiftDataOrdered_badLength {x : DataShift}
    (h : x.length = 0 ∨ x.order = .wire ∧ x.length % 8 ≠ 0) :
    Refuses .badLength (shiftDataOrdered x) := by
  cases hz : decide (x.length = 0) with
  | true => exact (Refuses.refuseIf hz).bind _
  | false =>
    obtain ⟨hw, hl⟩ := h.resolve_left (of_decide_eq_false hz)
    exact ((Refuses.refuseIf (by simp [hw, hl])).bind _).pass hz

theorem shiftData_badLength (wire present : Bool) (t : TapState) {length : Word32}
    {payload : List Byte} (ho : s.tapOwner = true)
    (hp : dataPayloadWell (if wire then .wire else .native) present length.toNat payload = true)
    (h : length.toNat = 0 ∨ wire = true ∧ length.toNat % 8 ≠ 0) :
    exec (.shiftData ⟨shiftDataFlags wire present t, length, 0#32, payload⟩) s
      = .next (takeError (refusal (some opShiftData) .badLength) s) := by
  have hx := shiftDataOperands_frame t present wire length.isLt hp
  rw [BitVec.ofNat_toNat, BitVec.setWidth_eq] at hx
  exact (Refuses.onOperands hx (shiftDataOrdered_badLength
    (h.imp_right fun ⟨hw, hl⟩ => ⟨if_pos hw, hl⟩))).command ho

/-- R246, R96: an SPI transfer of no bytes. -/
theorem spiTransfer_empty (P : Params) (invertCs : Bool) :
    Refuses .badLength (spiTransfer P [] invertCs) := (Refuses.refuseIf rfl).bind _

/-- R197, R96: a `CONFIGURE` without a bitstream. -/
theorem configure_empty (P : Params) : Refuses .badLength (configure P []) :=
  (Refuses.refuseIf rfl).bind _

/-- Settles O12: each form has good operands, and its operation refuses their length. -/
theorem badLengthsRefused : Obligations.BadLengthsRefused := by
  refine fun s ho => ⟨fun t => ?_, fun t form hform => ?_,
    fun t length hl => ⟨?_, fun payload hp => ?_⟩, fun invertCs => ?_, ?_⟩
  · have hx := shiftInstructionOperands_frame t (length := 0) (opcode := 0) (by decide) (by decide)
    exact (Refuses.onOperands hx ((shiftInstruction_empty 0 t).bind _)).command ho
  · have hempty (wire present : Bool) := shiftData_badLength (s := s) wire present t
      (length := 0#32) (payload := []) ho (by cases wire <;> cases present <;> rfl) (.inl rfl)
    obtain rfl | rfl | rfl | rfl :
        form = 0x00#8 ∨ form = 0x10#8 ∨ form = 0x20#8 ∨ form = 0x30#8 := by simpa using hform
    · exact hempty false false
    · exact hempty false true
    · exact hempty true false
    · exact hempty true true
  · exact shiftData_badLength true false t ho rfl (.inr ⟨rfl, hl⟩)
  · exact shiftData_badLength true true t ho (decide_eq_true hp) (.inr ⟨rfl, hl⟩)
  · exact (Refuses.onOperands (spiTransferOperands_frame invertCs [])
      (spiTransfer_empty _ invertCs)).command ho
  · exact (Refuses.onOperands (configureOperands_frame []) (configure_empty _)).command ho

end Sys2Proof.Machine
end

section
/-! What a response carries, spec/30_encoding.md R81 and spec/60_exceptions.md R267, and that every
command sends one: spec/30_encoding.md R101, spec/60_exceptions.md R265. -/

namespace Sys2Proof.Machine

variable {i : Instr} {s t u : State}

/-! ### Response bytes -/

/-- R81, R267: the detail and the error code share a byte. -/
theorem detail_append_errcode (detail : BitVec 5) (errcode : BitVec 3) :
    detail ++ errcode = BitVec.ofNat 8 (8 * detail.toNat + errcode.toNat) := by
  refine BitVec.eq_of_toNat_eq ?_
  rw [BitVec.toNat_append, ← Nat.shiftLeft_add_eq_or_of_lt errcode.isLt, Nat.shiftLeft_eq,
    BitVec.toNat_ofNat, Nat.mod_eq_of_lt (by omega)]
  omega

/-- R81, R267: the response of an error, byte by byte. -/
theorem errorResponse_eq (e : ErrorRecord) :
    errorResponse e = [kindCode e.kind, responseField 8 e.phase, e.opcode,
      BitVec.ofNat 8 (8 * e.detail.toNat + e.errcode.toNat)]
      ++ beBytes 4 e.status.toNat ++ [0#8, 0#8, 0#8, 0#8] := by
  rw [errorResponse, detail_append_errcode, be4_eq e.status]
  rfl

/-- R81: the response of a return, byte by byte. -/
theorem okResponse_eq (data : List Byte) :
    okResponse data = [0#8, 0#8, 0#8, 0#8, 0#8, 0#8, 0#8, 0#8]
      ++ beBytes 4 (responseField 32 data.length).toNat ++ data := by
  rw [okResponse, be4_eq (responseField 32 data.length)]
  rfl

/-- Settles O54: the fields of the two ends of a command, with the bytes of its response. -/
theorem responsesAndErrorRecord : Obligations.ResponsesAndErrorRecord := by
  refine ⟨fun e s => ⟨responseField 8 e.phase, fun h => responseField_toNat h, ?_⟩,
    fun data s => ⟨responseField 32 data.length, fun h => responseField_toNat h, ?_⟩⟩
  · rw [takeError, errorResponse_eq]
    cases e.kind <;> rfl
  · rw [finishCommand, okResponse_eq]
    rfl

/-! ### Answers -/

/-- R31: no single write touches `err.last`. -/
theorem Write.apply_errLast (w : Write) (s : State) : (w.apply s).errLast = s.errLast := by
  cases w <;> rfl

/-- R31: an operation leaves `err.last`; taking the error writes it. -/
theorem Effect.errLast_eq (h : Effect i s u) : u.errLast = s.errLast := by
  cases h with
  | writes _ hr => exact hr.keeps State.errLast fun w s _ => w.apply_errLast s
  | nothing | opens | releases => rfl

/-- R101: what any answer leaves: an empty port, and `seq.*` cleared. -/
theorem Answered.idle (h : Answered u t) :
    t.hostCmd = none ∧ t.seqOp = none ∧ t.seqPhase = 0 ∧ t.seqOpcode = 0#8 := by
  obtain ⟨data, rfl⟩ | ⟨e, rfl⟩ | ⟨-, rfl⟩ := h <;> exact ⟨rfl, rfl, rfl, rfl⟩

/-- Settles O55: a command's operation ends, and each of its three ends answers once. -/
theorem everyCommandAnswersOnce : Obligations.EveryCommandAnswersOnce := by
  intro i s
  obtain ⟨op, u, t, ht, hu, ha⟩ := exec_ends i s
  obtain ⟨hcmd, hop, hphase, hopcode⟩ := ha.idle
  refine ⟨t, ht, hcmd, hop, hphase, hopcode, ?_⟩
  obtain ⟨data, rfl⟩ | ⟨e, rfl⟩ | ⟨hdue, rfl⟩ := ha
  · exact .inl ⟨data, rfl, hu.errLast_eq⟩
  · exact .inr (.inl ⟨e, rfl, rfl⟩)
  · refine .inr (.inr ⟨fun hs => ?_, rfl, rfl⟩)
    have hquiet : u.resets = [] := hu.resets_nil hs
    simp [resetDue, hquiet] at hdue

end Sys2Proof.Machine
end

section
/-! The laws of SHDP, spec/40_bitvector_datapath.md: byte strings and the vectors they are (R120 to
R125), the reversals and the wire transform on them (R126 to R132), and the first zero bit (R134). -/

namespace Sys2Proof.Machine

variable {v : BitVector}

/-! ### Byte strings and vectors -/

@[simp] theorem toBytes_length (v : BitVector) (order : ByteOrder) :
    (toBytes v order).length = v.len / 8 := by
  cases order <;> simp [toBytes]

/-- R121: `from_bytes` loses no byte. -/
@[simp] theorem toBytes_fromBytes (b : List Byte) (order : ByteOrder) :
    toBytes (fromBytes b order) order = b := by
  cases order with
  | big => simp [toBytes, fromBytes, beBytes_fromBe]
  | little =>
    have h := beBytes_fromBe b.reverse
    rw [List.length_reverse] at h
    simp [toBytes, fromBytes, h]

/-- R121: the bytes of a vector that is whole bytes hold its value. -/
theorem fromBe_beBytes_val (hv : fits v) (h8 : v.len % 8 = 0) :
    fromBe (beBytes (v.len / 8) v.val) = v.val := by
  have hlen : 8 * (v.len / 8) = v.len := by omega
  have hpow : 256 ^ (v.len / 8) = 2 ^ v.len := by
    rw [show 256 = 2 ^ 8 from rfl, ← Nat.pow_mul, hlen]
  rw [fromBe_beBytes, hpow, Nat.mod_eq_of_lt hv]

/-- R121: `to_bytes` loses no bit of a vector that is whole bytes. -/
theorem fromBytes_toBytes (order : ByteOrder) (hv : fits v) (h8 : v.len % 8 = 0) :
    fromBytes (toBytes v order) order = v := by
  have hlen : 8 * (v.len / 8) = v.len := by omega
  have hval := fromBe_beBytes_val hv h8
  cases order with
  | big => exact bitVector_ext (by simp [fromBytes, hlen]) hval
  | little =>
    refine bitVector_ext (by simp [fromBytes, hlen]) ?_
    rw [← hval]
    exact congrArg fromBe (List.reverse_reverse _)

/-- A vector that is whole bytes is the vector of a byte string: a law of such vectors is one of
byte strings. -/
theorem exists_fromBytes (hv : fits v) (h8 : v.len % 8 = 0) : ∃ b, v = fromBytes b .big :=
  ⟨toBytes v .big, (fromBytes_toBytes .big hv h8).symm⟩

/-! ### Concatenation and slicing -/

/-- R124: concatenation is associative. -/
theorem append_assoc (a b c : BitVector) : append (append a b) c = append a (append b c) := by
  refine bitVector_ext (Nat.add_assoc _ _ _) ?_
  simp only [append, Nat.pow_add]
  ring

/-- R124: the empty vector is a right unit of concatenation. -/
theorem append_empty (v : BitVector) : append v ⟨0, 0⟩ = v := by simp [append]

/-- R124: the empty vector is a left unit of concatenation. -/
theorem empty_append (v : BitVector) : append ⟨0, 0⟩ v = v := by simp [append]

/-- R120, R124: the first bytes are the more significant part. -/
theorem fromBytes_append (x y : List Byte) :
    fromBytes (x ++ y) .big = append (fromBytes x .big) (fromBytes y .big) := by
  have hpow : 256 ^ y.length = 2 ^ (8 * y.length) := by rw [Nat.pow_mul]
  refine bitVector_ext ?_ ?_
  · simp [fromBytes, append, Nat.mul_add]
  · simp only [fromBytes, append, fromBe_append, hpow]

/-- R125: a vector is its upper slice joined to its lower one. -/
theorem append_slice {k : Nat} (hv : fits v) (hk : 0 < k) (hkv : k < v.len) :
    append (slice v (v.len - 1) k) (slice v (k - 1) 0) = v := by
  have hupper : v.len - 1 - k + 1 = v.len - k := by omega
  have hlower : k - 1 - 0 + 1 = k := by omega
  have hhigh : v.val / 2 ^ k < 2 ^ (v.len - k) := by
    refine Nat.div_lt_of_lt_mul ?_
    rw [← Nat.pow_add, Nat.add_sub_cancel' hkv.le]
    exact hv
  refine bitVector_ext ?_ ?_
  · simp only [append, slice]
    omega
  · simp only [append, slice, hupper, hlower, Nat.mod_eq_of_lt hhigh, Nat.pow_zero, Nat.div_one]
    exact Nat.div_add_mod' v.val (2 ^ k)

/-- Settles O15: bytes and vectors hold each other's values; concatenation adds lengths and shifts
values. -/
theorem bytesConcatenationSlicing : Obligations.BytesConcatenationSlicing :=
  ⟨fun order => ⟨fun b => toBytes_fromBytes b order, fun _ => fromBytes_toBytes order⟩,
    append_assoc, fun v => ⟨append_empty v, empty_append v⟩, fromBytes_append,
    fun _ _ => append_slice⟩

/-! ### Reversals -/

theorem fits_bitrevAll (v : BitVector) : fits (bitrevAll v) := fits_ofBits _

/-- R129 (a): the bits reversed twice. -/
theorem bitrevAll_bitrevAll (hv : fits v) : bitrevAll (bitrevAll v) = v := by
  rw [bitrevAll, bitrevAll, bitsOf_ofBits, List.reverse_reverse, ofBits_bitsOf hv]

@[simp] theorem bitrevByte_bitrevByte (b : Byte) : bitrevByte (bitrevByte b) = b :=
  BitVec.reverse_reverse_eq

theorem map_bitrevByte_map (b : List Byte) : (b.map bitrevByte).map bitrevByte = b := by
  simp [Function.comp_def]

/-- R127 on bytes: the bytes reversed. -/
theorem byterev_fromBytes (b : List Byte) :
    byterev (fromBytes b .big) = fromBytes b.reverse .big := by
  rw [byterev, toBytes_fromBytes]

/-- R128 on bytes: each byte's bits reversed. -/
theorem bitrevBytes_fromBytes (b : List Byte) :
    bitrevBytes (fromBytes b .big) = fromBytes (b.map bitrevByte) .big := by
  rw [bitrevBytes, toBytes_fromBytes]

/-- R129 (b): the bytes reversed twice. -/
theorem byterev_byterev (hv : fits v) (h8 : v.len % 8 = 0) : byterev (byterev v) = v := by
  obtain ⟨b, rfl⟩ := exists_fromBytes hv h8
  rw [byterev_fromBytes, byterev_fromBytes, List.reverse_reverse]

/-- R129 (c): the bits of each byte reversed twice. -/
theorem bitrevBytes_bitrevBytes (hv : fits v) (h8 : v.len % 8 = 0) :
    bitrevBytes (bitrevBytes v) = v := by
  obtain ⟨b, rfl⟩ := exists_fromBytes hv h8
  rw [bitrevBytes_fromBytes, bitrevBytes_fromBytes, map_bitrevByte_map]

/-- R129 (d): both orders give the bytes in place with their bits reversed. -/
theorem bitrevAll_byterev (hv : fits v) (h8 : v.len % 8 = 0) :
    bitrevAll (byterev v) = byterev (bitrevAll v) := by
  obtain ⟨b, rfl⟩ := exists_fromBytes hv h8
  rw [byterev_fromBytes, bitrevAll_fromBytes, bitrevAll_fromBytes, byterev_fromBytes,
    List.map_reverse]

/-- R130: the whole reversal reverses the bits of each byte, and then the bytes. -/
theorem bitrevAll_eq_byterev_bitrevBytes (b : List Byte) :
    bitrevAll (fromBytes b .big) = byterev (bitrevBytes (fromBytes b .big)) := by
  rw [bitrevAll_fromBytes, bitrevBytes_fromBytes, byterev_fromBytes, List.map_reverse]

/-! ### Wire order -/

/-- R129 (e): what is sent comes back. -/
theorem fromWire_toWire (b : List Byte) : fromWire (toWire b) = b := by
  rw [fromWire, toWire, bitrevAll_bitrevAll (fits_fromBytes b .big), toBytes_fromBytes]

/-- R129 (e): what came back is what was sent. -/
theorem toWire_fromWire (hv : fits v) (h8 : v.len % 8 = 0) : toWire (fromWire v) = v := by
  have hlen : (bitrevAll v).len % 8 = 0 := by rwa [bitrevAll_len]
  rw [toWire, fromWire, fromBytes_toBytes .big (fits_bitrevAll v) hlen, bitrevAll_bitrevAll hv]

/-- Settles O13: on whole bytes each reversal reverses a list or maps over it. -/
theorem reversalLaws : Obligations.ReversalLaws :=
  ⟨fun _ => bitrevAll_bitrevAll, fun _ => byterev_byterev, fun _ => bitrevBytes_bitrevBytes,
    fun _ => bitrevAll_byterev, fromWire_toWire, fun _ => toWire_fromWire,
    bitrevAll_eq_byterev_bitrevBytes⟩

@[simp] theorem fromWire_length (v : BitVector) : (fromWire v).length = v.len / 8 := by
  simp [fromWire]

theorem bitAt_ofBits (bits : List Bool) (i : Nat) : bitAt (ofBits bits) i = bits.getD i false :=
  testBit_valueOfBits bits i

/-- R132: the bit sent at shift tick `8 * j + k`. -/
theorem bitAt_toWire {b : List Byte} {j k : Nat} (hk : k < 8) (hj : j < b.length) :
    bitAt (toWire b) (8 * j + k) = b[j].getLsbD (7 - k) := by
  have hi : 8 * j + k < (toWire b).len := by rw [toWire_len]; omega
  rw [bitAt_getD _ _ hi, bitsOf_toWire, getD_flatMap_byteBits _ _ _ hk (by simpa using hj),
    List.getElem_map, bitrevByte_getLsbD _ _ hk]

/-- Settles O14: the way out is bit by bit; the way in is its inverse, since the sampled bits are
those of the bytes sent. -/
theorem wireOrderIsBytesFirst : Obligations.WireOrderIsBytesFirst := by
  refine ⟨fun b => ⟨toWire_len b, fun j k hk hj => bitAt_toWire hk hj⟩,
    fun bits h8 => ⟨fromWire_length _, fun j k hj hk => ?_⟩⟩
  rw [← bitAt_toWire hk hj, toWire_fromWire (fits_ofBits bits) h8, bitAt_ofBits]

/-! ### Counting -/

/-- R134: what the list search of `leading_ones` finds, at the bits of the vector. -/
theorem leadingOnes_eq_some_iff {i : Nat} : leadingOnes v = some i ↔
    i < v.len ∧ bitAt v i = false ∧ ∀ j < i, bitAt v j = true := by
  rw [leadingOnes, firstZero_some, bitsOf_length]
  refine and_congr_right fun hi => ?_
  rw [bitAt_getD v i hi]
  refine and_congr_right fun _ => forall₂_congr fun j hj => ?_
  rw [bitAt_getD v j (hj.trans hi)]

/-- R134: where that search finds nothing. -/
theorem leadingOnes_eq_none_iff : leadingOnes v = none ↔ ∀ i < v.len, bitAt v i = true := by
  rw [leadingOnes, firstZero_none, bitsOf_length]
  refine forall₂_congr fun i hi => ?_
  rw [bitAt_getD v i hi]

/-- Settles O16: what the search finds, and where it finds nothing. -/
theorem leadingOnesIsFirstZero : Obligations.LeadingOnesIsFirstZero :=
  fun _ => ⟨fun _ => leadingOnes_eq_some_iff, leadingOnes_eq_none_iff⟩

end Sys2Proof.Machine
end

section
/-! The TAP graph, spec/41_tap_controller.md R143, R144: its table, and why the walk that the
breadth-first search finds is the shortest one and the only one of its length. -/

namespace Sys2Proof.Machine

/-- R84: what holds of the states of any two codes holds of any two states. -/
theorem forall_tapStates {p : TapState → TapState → Prop}
    (h : ∀ a b : BitVec 4, p (stateOfCode a) (stateOfCode b)) (s t : TapState) : p s t := by
  have hst := h (stateCode s) (stateCode t)
  rwa [stateOfCode_stateCode, stateOfCode_stateCode] at hst

/-- R143: five ones lead to RESET. -/
theorem walkState_five_ones (source : TapState) :
    walkState source [true, true, true, true, true] = .reset := by
  cases source <;> rfl

/-- Settles O17: the table by its rows, and reachability by the paths of R144. -/
theorem tapGraphTable : Obligations.TapGraphTable :=
  ⟨by decide, fun source target => ⟨path source target, walkState_path source target⟩,
    walkState_five_ones⟩

/-- R144: the longest path has 8 ticks. -/
theorem path_length_le_eight : ∀ source target : TapState, (path source target).length ≤ 8 :=
  forall_tapStates (by decide +kernel)

/-- R143, R144: every tick is the first one of the path, or leads no closer to the target. -/
theorem path_eq_cons_or_length_le : ∀ (source target : TapState) (tms : Bool),
    path source target = tms :: path (nextState source tms) target
      ∨ (path source target).length ≤ (path (nextState source tms) target).length :=
  forall_tapStates (by decide +kernel)

theorem path_self (t : TapState) : path t t = [] := by cases t <;> rfl

/-- R144: a walk is longer than the path, or it is the path. -/
theorem path_length_lt_or_eq {source target : TapState} {tms : List Bool}
    (h : walkState source tms = target) :
    (path source target).length < tms.length ∨ path source target = tms := by
  induction tms generalizing source with
  | nil => exact .inr (h ▸ path_self source)
  | cons b tms ih =>
    obtain hfirst | hfar := path_eq_cons_or_length_le source target b
    · obtain hlt | rfl := ih h
      · exact .inl (by simpa [hfirst] using hlt)
      · exact .inr hfirst
    · refine .inl (hfar.trans_lt (Nat.lt_succ_of_le ?_))
      obtain hlt | heq := ih h
      · exact hlt.le
      · exact (congrArg List.length heq).le

/-- Settles O18: no tick of a walk leads closer than the path's own. -/
theorem pathIsTheShortestWalk : Obligations.PathIsTheShortestWalk := by
  refine ⟨walkState_path, fun source target tms h => ?_, path_length_le_eight, by decide +kernel⟩
  obtain hlt | rfl := path_length_lt_or_eq h
  · exact ⟨hlt.le, fun hlen => absurd hlen hlt.ne'⟩
  · exact ⟨le_rfl, fun _ => rfl⟩

end Sys2Proof.Machine
end

section
/-! The TAP controller's commands that move no data, spec/41_tap_controller.md R140 to R142, R153,
R155, R157: the session, the mode flag and the indicator, and what every other command is without a
session. -/

namespace Sys2Proof.Machine

variable {α : Type} {d : RefusedDetail} {s : State} {i : Instr} {op : Byte}

/-! ### The owner check -/

/-- R142: every command but `ACQUIRE` checks the owner under its own operation code. -/
theorem exec_eq_requireOwner (hacquire : ∀ f, i ≠ .acquire f) : ∃ body : Engine (List Byte),
    ∀ s, exec i s = commandCycle (operationCode i) (requireOwner >>= fun _ => body) s := by
  cases i with
  | acquire f => exact absurd rfl (hacquire f)
  | _ => exact ⟨_, fun _ => rfl⟩

/-- R142: the owner check without a session. -/
theorem requireOwner_refused (ho : s.tapOwner = false) : requireOwner s
    = .error (.raised (.refused .notOwner) (errorRecord (.refused .notOwner) s)) s := by
  rw [requireOwner, bind_ok (observe_run _ _), ho]
  rfl

/-- Settles O10: the owner check comes before every operation. -/
theorem closedSessionRefused : Obligations.ClosedSessionRefused := by
  intro i s ho hacquire
  obtain ⟨body, hexec⟩ := exec_eq_requireOwner hacquire
  rw [hexec, commandCycle,
    bind_error (requireOwner_refused (s := beginCommand (operationCode i) s) ho), commandOutcome,
    takeError_refusal]

/-! ### Commands that return -/

/-- R101: in a session, a command that takes its operands and whose operation then returns without a
write to `seq.*`. -/
theorem ownedCommand_returns {operands : Operand α} {x : α} {body : α → Engine (List Byte)}
    {data : List Byte} {t : State} (ho : s.tapOwner = true) (hx : operands = .ok x)
    (h : body x (beginCommand (some op) s) = .ok data (beginCommand (some op) t)) :
    ownedCommand op (takeOperands operands >>= body) s = .next (finishCommand data t) := by
  rw [ownedCommand_owner _ _ _ ho, hx, bind_ok (takeOperands_ok x _), h]
  rfl

/-! ### The session -/

/-- R140: `ACQUIRE` tests the session, then its operands. -/
theorem exec_acquire (f : HostFields) (s : State) : exec (.acquire f) s
    = commandOutcome ((refuseIf s.tapOwner .busy >>= fun _ => takeOperands (noOperands f)
        >>= fun _ => update sessionOpened >>= fun _ => pure [])
        (beginCommand (some opAcquire) s)) := rfl

/-- Settles O19: the session test, and what a good `ACQUIRE` writes. -/
theorem acquireOpensSession : Obligations.AcquireOpensSession := by
  refine ⟨fun s f ho => ?_, fun s ho => ?_⟩
  · rw [exec_acquire, (Refuses.refuseIf ho).bind]
    rfl
  · rw [exec_acquire, ho, noOperands_noFields]
    rfl

/-- Settles O20: what a good `RELEASE` writes, and the owner check of every command. -/
theorem releaseClosesSession : Obligations.ReleaseClosesSession :=
  ⟨fun _ ho => ownedCommand_returns ho noOperands_noFields rfl,
    fun s f ho => closedSessionRefused (.release f) s ho nofun⟩

/-! ### The mode flag and the sinks -/

/-- R157: `PLAY_PATTERN` has no operation but its refusal. -/
theorem Refuses.raise : Refuses d (raise (.refused d) : Engine α) := fun _ => rfl

/-- Settles O28: the flag's write, the sink's write, and the refusal before any operand. -/
theorem modeAndIndicatorCommands : Obligations.ModeAndIndicatorCommands := by
  refine fun s ho => ⟨fun enable => ?_, fun pattern hr => ?_, fun f => ?_⟩
  · exact ownedCommand_returns ho (forceBitbangOperands_frame enable) rfl
  · exact ownedCommand_returns ho (scalarOperand_frame pattern)
      (bind_ok (indicator_run pattern.toNat (s := beginCommand (some opSetIndicator) s) hr))
  · exact Refuses.raise.command ho

end Sys2Proof.Machine
end

section
/-! The TAP controller's commands that tick, spec/41_tap_controller.md R145 to R151: on a link that
answers, each is one step of a plan (Safety.lean), and `ENUMERATE` is a plan of several. -/

namespace Sys2Proof.Machine

variable {α : Type} {s : State} {op : Byte}

/-! ### Commands of one step -/

/-- R101: in a session, a command that takes its operands and whose operation then performs a plan. -/
theorem ownedCommand_performs {operands : Operand α} {x : α} {body : α → Engine (List Byte)}
    {data : List Byte} {plan : List Act} (ho : s.tapOwner = true) (hx : operands = .ok x)
    (h : body x (beginCommand (some op) s)
      = .ok data (performed plan (beginCommand (some op) s))) :
    ownedCommand op (takeOperands operands >>= body) s
      = .next (finishCommand data (performed plan s)) :=
  ownedCommand_plan ho ((bind_ok (hx ▸ takeOperands_ok x _)).trans h)

/-- A plan of one step is ready where that step has its bits. -/
theorem ready_single {a : Act} (h : Ready [a] s) : a.fits s.tapState ∧ Supplies s a.tdo :=
  (ready_cons h).1

/-- R145: `MOVE_TO_STATE` on a link that answers. -/
theorem exec_moveToState {target : TapState} {tdo : List Bool} (ho : s.tapOwner = true)
    (h : (Act.move target tdo).fits s.tapState ∧ Supplies s (Act.move target tdo).tdo) :
    exec (.moveToState ⟨0#8, (stateCode target).zeroExtend 32, 0#32, []⟩) s
      = .next (finishCommand [] (performed [.move target tdo] s)) :=
  ownedCommand_performs ho (moveToStateOperands_frame target)
    (bind_ok (moveToState_act (s := beginCommand (some opMoveToState) s) h))

/-- R145: a move to where the TAP is makes no tick, whether or not reset is to be asserted. -/
theorem moveToState_self (s : State) : moveToState s.tapState s = .ok () s := by
  rw [moveToState, bind_ok (observe_run _ _), path_self]
  rfl

/-- Settles O21: the move is one step of a plan, and the path to the tracked state is empty. -/
theorem moveToStateWalks : Obligations.MoveToStateWalks := by
  refine ⟨fun s target tdo ho h => ⟨exec_moveToState ho (ready_single h), ?_⟩, fun s ho => ?_⟩
  · exact Act.apply_tapState (ready_single h).1
  · exact ownedCommand_returns ho (moveToStateOperands_frame s.tapState)
      (bind_ok (moveToState_self (beginCommand (some opMoveToState) s)))

/-- Settles O22: the five ticks are the reset step of a plan. -/
theorem tapResetTicksFiveTimes : Obligations.TapResetTicksFiveTimes :=
  fun s b0 b1 b2 b3 b4 ho h =>
    ownedCommand_performs (plan := [.reset [b0, b1, b2, b3, b4]]) ho noOperands_noFields
      (bind_ok (tapReset_act (s := beginCommand (some opTapReset) s) ⟨rfl, h⟩))

/-- R150: a state that is not one of the three run states. -/
theorem runTest_badState (cycles : Nat) {runState : TapState} (h : isRunState runState = false) :
    Refuses .badState (runTest cycles runState) :=
  (Refuses.refuseIf (by simp [h])).bind _

/-- Settles O26: the move and the ticks are one step of a plan; other states are refused first. -/
theorem runTestTicks : Obligations.RunTestTicks := by
  refine ⟨fun s runState cycles tdo ho _ h => ⟨?_, Act.apply_tapState (ready_single h).1⟩,
    fun s runState cycles ho hidle hdr hir => ?_⟩
  · exact ownedCommand_performs ho (runTestOperands_frame runState cycles)
      (bind_ok (runTest_act (s := beginCommand (some opRunTest) s) (ready_single h)))
  · have hstate : isRunState runState = false := by simp [isRunState, hidle, hdr, hir]
    exact (Refuses.onOperands (runTestOperands_frame runState cycles)
      ((runTest_badState cycles.toNat hstate).bind _)).command ho

/-! ### Shifts -/

/-- R85: what a native shift of a scan answers. -/
theorem muxIn_native {bits : List Bool} {length : Nat} (h : bits.length = length) :
    muxIn .native (ofBits bits) = beBytes ((length + 7) / 8) (valueOfBits bits) := h ▸ rfl

/-- R147: a ready shift samples a bit for each bit it sends. -/
theorem word_length_of_instruction {opcode length : Nat} {t : TapState} {c : Scan}
    (h : Ready [.instruction opcode length t c] s) : c.word.length = length := by
  obtain ⟨⟨-, -, hword, -⟩, -⟩ := ready_single h
  exact hword

/-- R147: likewise for a data shift. -/
theorem word_length_of_data {v : BitVector} {t : TapState} {c : Scan}
    (h : Ready [.data v t c] s) : c.word.length = v.len := by
  obtain ⟨⟨-, -, hword, -⟩, -⟩ := ready_single h
  exact hword

/-- Settles O24: the shift is one step of a plan, and the word captured has the shift's length. -/
theorem shiftInstructionShifts : Obligations.ShiftInstructionShifts := by
  intro s stateAfter length opcode c ho hl hopcode h
  rw [← muxIn_native (word_length_of_instruction h)]
  exact ownedCommand_performs ho (shiftInstructionOperands_frame stateAfter hl hopcode)
    (bind_ok (shiftInstruction_act (s := beginCommand (some opShiftInstruction) s) (ready_single h)))

/-- R149: a data shift in either order on a link that answers. -/
theorem shiftDataOrdered_act {x : DataShift} {v : BitVector} {c : Scan}
    (hv : (x.tdi.map (muxOut x.order x.length)).getD (ones x.length) = v) (hl : v.len = x.length)
    (hw : x.order = .wire → x.length % 8 = 0)
    (h : (Act.data v x.stateAfter c).fits s.tapState ∧ Supplies s (Act.data v x.stateAfter c).tdo) :
    shiftDataOrdered x s
      = .ok (muxIn x.order (ofBits c.word)) ((Act.data v x.stateAfter c).apply s) := by
  have h0 : decide (x.length = 0) = false := decide_eq_false (hl ▸ Nat.pos_iff_ne_zero.mp h.1.1)
  have h8 : (decide (x.order = .wire) && decide (x.length % 8 ≠ 0)) = false := by simpa using hw
  rw [shiftDataOrdered, h0, bind_ok (refuseIf_false _ s)]
  simp only [h8]
  rw [bind_ok (refuseIf_false _ s), bind_ok (shiftData_act hv hl h)]
  rfl

/-- R149, R83: `SHIFT_DATA` on a link that answers, in any of its four forms. -/
theorem exec_shiftData (wire present : Bool) {t : TapState} {length : Nat} {payload : List Byte}
    {v : BitVector} {c : Scan} (ho : s.tapOwner = true) (hl : length < 2 ^ 32)
    (hp : dataPayloadWell (if wire then .wire else .native) present length payload = true)
    (hv : ((if present then some payload else none).map
      (muxOut (if wire then .wire else .native) length)).getD (ones length) = v)
    (hlen : v.len = length) (hw : wire = true → length % 8 = 0) (h : Ready [.data v t c] s) :
    exec (.shiftData ⟨shiftDataFlags wire present t, BitVec.ofNat 32 length, 0#32, payload⟩) s
      = .next (finishCommand (muxIn (if wire then .wire else .native) (ofBits c.word))
          (performed [.data v t c] s)) :=
  ownedCommand_performs ho (shiftDataOperands_frame t present wire hl hp)
    (shiftDataOrdered_act (s := beginCommand (some opShiftData) s) hv hlen
      (fun horder => hw (by cases wire <;> simp_all)) (ready_single h))

theorem shiftDataFlags_plain (t : TapState) :
    shiftDataFlags false false t = (stateCode t).zeroExtend 8 := by cases t <;> rfl

/-- R85: whole bytes are as many as a packed operand of their bits has. -/
theorem packedLength_mul_eight (n : Nat) : packedLength (8 * n) = n := by
  rw [packedLength]; omega

/-- Settles O25, form by form: the payload is well packed, and is what the mux sends. -/
theorem shiftDataShifts : Obligations.ShiftDataShifts := by
  intro s t c ho
  refine ⟨fun length value hl hvalue h => ?_, fun length hl h => ?_, fun bytes hl h => ?_,
    fun n hl h => ?_⟩
  · obtain ⟨hpacked, hfrom⟩ := packedWell_beBytes hvalue
    rw [← muxIn_native (word_length_of_data h)]
    exact exec_shiftData false true ho hl hpacked (congrArg (BitVector.mk length) hfrom) rfl nofun h
  · rw [← muxIn_native (length := length) (word_length_of_data h), ← shiftDataFlags_plain]
    exact exec_shiftData false false ho hl rfl rfl rfl nofun h
  · exact exec_shiftData true true ho hl
      (decide_eq_true (packedLength_mul_eight bytes.length).symm) rfl (toWire_len bytes)
      (fun _ => Nat.mul_mod_right 8 _) h
  · exact exec_shiftData true false ho hl rfl rfl rfl (fun _ => Nat.mul_mod_right 8 n) h

/-! ### Enumeration -/

/-- R151: the words that end an enumeration. -/
theorem noDeviceId_iff (id : Word32) :
    noDeviceId id = true ↔ id = 0#32 ∨ id = 0xFFFFFFFF#32 := by
  rw [noDeviceId, Bool.or_eq_true, decide_eq_true_iff, decide_eq_true_iff,
    show BitVec.allOnes 32 = 0xFFFFFFFF#32 from rfl]

theorem noDeviceId_eq_false {id : Word32} (h : id ≠ 0#32 ∧ id ≠ 0xFFFFFFFF#32) :
    noDeviceId id = false := by
  rw [← Bool.not_eq_true, noDeviceId_iff]
  exact not_or.mpr h

/-- R151: the plan of an `ENUMERATE` that reads these words. -/
def chainReadPlan (P : Params) (reset leave : List Bool) (c : Scan) (words : List Scan) :
    List Act :=
  .reset reset :: .instruction P.opcReadId.toNat 8 .irPause c
    :: enumeratePlan words ++ [.move .idle leave]

/-- R151: an enumeration whose read loop reads just these words. -/
theorem enumerate_plan {P : Params} {reset leave : List Bool} {c : Scan} {words : List Scan}
    {devices : List JtagDevice}
    (hloop : ∀ {t : State}, Ready (enumeratePlan words) t →
      enumerateLoop P P.maxDevices [] t = .ok devices (performed (enumeratePlan words) t))
    (h : Ready (chainReadPlan P reset leave c words) s) :
    enumerate P s = .ok devices (performed (chainReadPlan P reset leave c words) s) := by
  obtain ⟨hreset, h⟩ := ready_cons h
  obtain ⟨hinstruction, h⟩ := ready_cons h
  obtain ⟨hwords, hmove⟩ := ready_append h
  rw [enumerate, bind_ok (tapReset_act hreset)]
  refine (bind_ok (shiftInstruction_act hinstruction)).trans ?_
  rw [bind_ok (hloop hwords), bind_ok (moveToState_act (ready_single hmove)), pure_run,
    chainReadPlan, performed_append]
  simp only [performed_cons, performed_nil]

/-- R83: the response lists the identities in chain order. -/
theorem deviceBytes_words (P : Params) (words : List Scan) :
    deviceBytes (words.map fun c => ⟨c.word32, partLookup P c.word32⟩)
      = words.flatMap fun c => be4 c.word32 := List.flatMap_map ..

/-- R151: `ENUMERATE` on a link that answers, where its read loop reads these words and lists the
devices of some of them. -/
theorem exec_enumerate {reset leave : List Bool} {c : Scan} {words listed : List Scan}
    (ho : s.tapOwner = true)
    (hloop : ∀ {t : State}, Ready (enumeratePlan words) t →
      enumerateLoop Config.params Config.params.maxDevices [] t
        = .ok (listed.map fun c => ⟨c.word32, partLookup Config.params c.word32⟩)
            (performed (enumeratePlan words) t))
    (h : Ready (chainReadPlan Config.params reset leave c words) s) :
    exec (.enumerate noFields) s = .next (finishCommand (listed.flatMap fun c => be4 c.word32)
      (performed (chainReadPlan Config.params reset leave c words) s)) := by
  rw [← deviceBytes_words Config.params]
  exact ownedCommand_performs ho noOperands_noFields
    (bind_ok (enumerate_plan hloop (ready_beginCommand (some opEnumerate) h)))

/-- Settles O27: the read loop ends at a terminator, or after `P_MAX_DEVICES` words. -/
theorem enumerateListsTheChain : Obligations.EnumerateListsTheChain := by
  refine ⟨fun s reset leave c last words ho hn hwords hlast h => ?_,
    fun s reset leave c words ho hn hwords h => ?_⟩
  · exact exec_enumerate ho (enumerateLoop_ended _ hn
      (fun w hw => noDeviceId_eq_false (hwords w hw)) ((noDeviceId_iff _).mpr hlast)) h
  · exact exec_enumerate ho (enumerateLoop_full _ hn
      fun w hw => noDeviceId_eq_false (hwords w hw)) h

end Sys2Proof.Machine
end

section
/-! Width detection, spec/42_register_framer.md R171, R172: `DETECT_WIDTHS` performs its plan, answers
from a valid cache, or raises `BadWidth` after the plan of the probes it made. -/

namespace Sys2Proof.Machine

variable {P : Params} {s : State} {reset : List Bool} {data address : ScanPair} {plan : List Act}

/-! ### A probe without a usable width -/

/-- R171, R26: a probe found no width, 0, or a width that is no multiple of 8. -/
def UnusableWidth (c : ScanPair) : Prop :=
  ∀ w, leadingOnes (ofBits c.data.word) = some w → w = 0 ∨ w % 8 ≠ 0

/-- An operation performs a plan and then raises `BadWidth`. -/
def RaisesBadWidth {α : Type} (m : Engine α) (plan : List Act) (s : State) : Prop :=
  m s = .error (.raised (.configurationMismatch .badWidth)
    (errorRecord (.configurationMismatch .badWidth) (performed plan s))) (performed plan s)

/-- R171: an unusable width raises `BadWidth` at once. -/
theorem requireWidth_unusable {c : ScanPair} (h : UnusableWidth c) (s : State) :
    RaisesBadWidth (requireWidth (leadingOnes (ofBits c.data.word))) [] s := by
  rw [RaisesBadWidth]
  cases hw : leadingOnes (ofBits c.data.word) with
  | none => rfl
  | some w => rw [requireWidth, if_pos (h w hw), raise_run, performed_nil]

/-- R171: without a valid cache the widths are measured. -/
theorem detectWidths_uncached (hv : s.rafValid = false) : detectWidths P s = measureWidths P s := by
  rw [detectWidths, bind_ok (observe_run _ _), hv]
  rfl

/-- R171: the data probe comes first, so an unusable data width ends the measurement there. -/
theorem measureWidths_badData (hd : UnusableWidth data)
    (hr : Ready (.reset reset :: probePlan P.opcMetaDr data) s) :
    RaisesBadWidth (measureWidths P) (.reset reset :: probePlan P.opcMetaDr data) s := by
  obtain ⟨hreset, hdata⟩ := ready_cons hr
  rw [RaisesBadWidth, measureWidths, bind_ok (tapReset_act hreset), bind_ok (probeWidth_plan hdata),
    bind_error (requireWidth_unusable hd _), performed_cons, performed_nil]

/-- R171: after a usable data width, an unusable address width ends the measurement. -/
theorem measureWidths_badAddress {dw : Nat} (hd : usableWidth data dw) (ha : UnusableWidth address)
    (hr : Ready (.reset reset :: probePlan P.opcMetaDr data ++ probePlan P.opcMetaIr address) s) :
    RaisesBadWidth (measureWidths P)
      (.reset reset :: probePlan P.opcMetaDr data ++ probePlan P.opcMetaIr address) s := by
  obtain ⟨hfirst, haddress⟩ := ready_append hr
  obtain ⟨hreset, hdata⟩ := ready_cons hfirst
  rw [performed_cons] at haddress
  rw [RaisesBadWidth, measureWidths, bind_ok (tapReset_act hreset), bind_ok (probeWidth_plan hdata),
    bind_ok (requireWidth_usable hd _), bind_ok (probeWidth_plan haddress),
    bind_error (requireWidth_unusable ha _), performed_append, performed_cons, performed_nil]

/-! ### The command -/

/-- R267: the record of a `BadWidth` raised after ticks alone, in the command `op`. -/
theorem errorRecord_badWidth {op : Byte} (hphase : plan.all Act.keepsPhase = true)
    (hopcode : plan.all Act.keepsOpcode = true) :
    errorRecord (.configurationMismatch .badWidth) (performed plan (beginCommand (some op) s))
      = { kind := .configurationMismatch, detail := 1, op := some op, phase := 0
          opcode := 0#8, errcode := 0, status := 0 } := by
  simp only [errorRecord, raiseOpcode, performed_seqOp, performed_seqPhase hphase,
    performed_seqOpcode hopcode]
  rfl

/-- R171, R265: `DETECT_WIDTHS` whose measurement raises `BadWidth` after ticks alone: the error, and
a cache that is still invalid. -/
theorem exec_detectWidths_badWidth (ho : s.tapOwner = true) (hv : s.rafValid = false)
    (hphase : plan.all Act.keepsPhase = true) (hopcode : plan.all Act.keepsOpcode = true)
    (hwidths : plan.all Act.keepsWidths = true)
    (h : RaisesBadWidth (measureWidths Config.params) plan
      (beginCommand (some opDetectWidths) s)) :
    exec (.detectWidths noFields) s = .next (takeError
        { kind := .configurationMismatch, detail := 1, op := some 0x10#8, phase := 0
          opcode := 0#8, errcode := 0, status := 0 } (performed plan s))
      ∧ (performed plan s).rafValid = false := by
  rw [RaisesBadWidth, errorRecord_badWidth hphase hopcode,
    ← detectWidths_uncached (s := beginCommand (some opDetectWidths) s) hv] at h
  obtain ⟨hvalid, -, -⟩ := performed_widths (s := s) hwidths
  exact ⟨ownedCommand_raised ho ((bind_ok (takeOperands_ok () _)).trans (bind_error h)),
    hvalid.trans hv⟩

/-- Settles O29: the measurement is a plan, and a valid cache is the answer itself. -/
theorem detectWidthsMeasuresOnce : Obligations.DetectWidthsMeasuresOnce := by
  refine ⟨fun s reset data address iw dw ho hv hd ha h => ?_, fun s ho hv => ?_⟩
  · exact ownedCommand_performs ho noOperands_noFields
      (bind_ok (detectWidths_plan (s := beginCommand (some opDetectWidths) s) hv hd ha h))
  · exact ownedCommand_returns ho noOperands_noFields
      (bind_ok (detectWidths_cached (s := beginCommand (some opDetectWidths) s) hv))

/-- Settles O30: either probe's failure ends the measurement after that probe's ticks. -/
theorem unusableDataWidthRaises : Obligations.UnusableDataWidthRaises := by
  intro s reset data ho hv
  refine ⟨fun hd h => ?_, fun address dw hd ha h => ?_⟩
  · exact exec_detectWidths_badWidth ho hv rfl rfl rfl
      (measureWidths_badData hd (ready_beginCommand _ h))
  · exact exec_detectWidths_badWidth ho hv rfl rfl rfl
      (measureWidths_badAddress hd ha (ready_beginCommand _ h))

end Sys2Proof.Machine
end

section
/-! Register transactions, spec/42_register_framer.md R173 to R175: the three register operations are
one exchange, with widths known before it or measured by it, or refused by it once they are known. -/

namespace Sys2Proof.Machine

variable {α : Type} {P : Params} {s : State} {op : Byte} {d : RefusedDetail}
variable {address dw value result : Nat} {isWrite emptyIsZero : Bool} {payload : List Byte}
variable {c : RegisterScans} {plan : List Act}

/-! ### Payloads -/

/-- R83, R85: a payload that stands for the value where an empty one means 0. -/
def Carries (dw value : Nat) (payload : List Byte) : Prop :=
  payload = beBytes (dw / 8) value ∨ payload = [] ∧ value = 0

theorem payloadValue_carries (hp : Carries dw value payload) (hdw : dw % 8 = 0)
    (hv : value < 2 ^ dw) : payloadValue dw true payload = .ok value := by
  obtain rfl | ⟨rfl, rfl⟩ := hp
  · exact payloadValue_beBytes true hdw hv
  · exact payloadValue_nil dw

/-- Log 17: which payloads are taken, whatever value they have. -/
theorem payloadValue_taken (h : payload.length = dw / 8 ∨ emptyIsZero = true ∧ payload = []) :
    payloadValue dw emptyIsZero payload = .ok (fromBe payload) := operandIf_true (by simpa using h)

theorem payloadValue_refused (h : payload.length ≠ dw / 8)
    (hempty : emptyIsZero = true → payload ≠ []) :
    payloadValue dw emptyIsZero payload = .error .badOperand :=
  operandIf_false (by simpa [h] using hempty)

/-! ### The exchange -/

/-- R173: the exchange once detection, with or without ticks, has left the widths cached. -/
theorem regExchange_detected {t : State} (hw : detectWidths P s = .ok (t.rafIw, t.rafDw) t)
    (hv : t.rafValid = true) (ha : address < 2 ^ (t.rafIw - 1)) (hd : value < 2 ^ t.rafDw)
    (hp : payloadValue t.rafDw emptyIsZero payload = .ok value)
    (hr : Ready (registerPlan P t.rafIw t.rafDw address isWrite value c) t) :
    regExchange P address isWrite emptyIsZero payload s
      = .ok (t.rafDw, valueOfBits c.value.data.word)
          (performed (registerPlan P t.rafIw t.rafDw address isWrite value c) t) := by
  rw [← regExchange_plan hv ha hd hp hr, regExchange, bind_ok hw, bind_ok (detectWidths_cached hv)]

/-- R173: the exchange where no widths are known: the detection's plan, then the transaction's. -/
theorem regExchange_measures {reset : List Bool} {data probe : ScanPair} {iw : Nat}
    (hv : s.rafValid = false) (hdata : usableWidth data dw) (hprobe : usableWidth probe iw)
    (ha : address < 2 ^ (iw - 1)) (hd : value < 2 ^ dw)
    (hp : payloadValue dw emptyIsZero payload = .ok value)
    (hr : Ready (detectPlan P reset data probe iw dw
      ++ registerPlan P iw dw address isWrite value c) s) :
    regExchange P address isWrite emptyIsZero payload s
      = .ok (dw, valueOfBits c.value.data.word) (performed (detectPlan P reset data probe iw dw
          ++ registerPlan P iw dw address isWrite value c) s) := by
  obtain ⟨hdetect, hregister⟩ := ready_append hr
  rw [performed_append]
  exact regExchange_detected (t := performed (detectPlan P reset data probe iw dw) s)
    (detectWidths_plan hv hdata hprobe hdetect) rfl ha hd hp hregister

/-- R173, log 17: the payload is judged once the widths are known. -/
theorem regExchange_badOperand (hv : s.rafValid = true)
    (hp : payloadValue s.rafDw emptyIsZero payload = .error .badOperand) :
    regExchange P address isWrite emptyIsZero payload s
      = .error (.raised (.refused .badOperand) (errorRecord (.refused .badOperand) s)) s := by
  rw [regExchange, bind_ok (detectWidths_cached hv)]
  exact Refuses.operands hp s

/-- R173: the address is judged after the payload. -/
theorem regExchange_badAddress (hv : s.rafValid = true) (ha : 2 ^ (s.rafIw - 1) ≤ address)
    (hp : payloadValue s.rafDw emptyIsZero payload = .ok value) :
    regExchange P address isWrite emptyIsZero payload s
      = .error (.raised (.refused .badAddress) (errorRecord (.refused .badAddress) s)) s := by
  have htransaction : regTransaction P address isWrite value s
      = .error (.raised (.refused .badAddress) (errorRecord (.refused .badAddress) s)) s := by
    rw [regTransaction, bind_ok (detectWidths_cached hv)]
    exact (Refuses.refuseIf (decide_eq_true ha)).bind _ s
  rw [regExchange, bind_ok (detectWidths_cached hv), hp, bind_ok (takeOperands_ok value s),
    bind_error htransaction]

/-! ### The commands, given their exchange -/

/-- The exchange of the command `op` returns this result, and performs this plan. -/
def Exchanges (op : Byte) (address : Nat) (isWrite emptyIsZero : Bool) (payload : List Byte)
    (dw result : Nat) (plan : List Act) (s : State) : Prop :=
  regExchange Config.params address isWrite emptyIsZero payload (beginCommand (some op) s)
    = .ok (dw, result) (performed plan (beginCommand (some op) s))

theorem toNat_ofNat_address (h : address < 2 ^ 32) : (BitVec.ofNat 32 address).toNat = address :=
  (BitVec.toNat_ofNat address 32).trans (Nat.mod_eq_of_lt h)

theorem exec_regTransaction (ho : s.tapOwner = true) (hl : address < 2 ^ 32)
    (h : Exchanges opRegTransaction address isWrite true payload dw result plan s) :
    exec (.regTransaction ⟨BitVec.ofNat 8 isWrite.toNat, BitVec.ofNat 32 address, 0#32, payload⟩) s
      = .next (finishCommand (beBytes (dw / 8) result) (performed plan s)) := by
  rw [← toNat_ofNat_address hl] at h
  exact ownedCommand_performs ho (regTransactionOperands_frame isWrite _ payload) (bind_ok h)

theorem exec_regRead (ho : s.tapOwner = true) (hl : address < 2 ^ 32)
    (h : Exchanges opRegRead address false true [] dw result plan s) :
    exec (.regRead ⟨0#8, BitVec.ofNat 32 address, 0#32, []⟩) s
      = .next (finishCommand (beBytes (dw / 8) result) (performed plan s)) := by
  rw [← toNat_ofNat_address hl] at h
  exact ownedCommand_performs ho (scalarOperand_frame _) (bind_ok h)

theorem exec_regWrite (ho : s.tapOwner = true) (hl : address < 2 ^ 32)
    (h : Exchanges opRegWrite address true false payload dw result plan s) :
    exec (.regWrite ⟨0#8, BitVec.ofNat 32 address, 0#32, payload⟩) s
      = .next (finishCommand [] (performed plan s)) := by
  rw [← toNat_ofNat_address hl] at h
  exact ownedCommand_performs ho (regWriteOperands_frame _ payload) (bind_ok h)

/-- R264: in a session, a command with good operands that its operation refuses in this state. -/
theorem ownedCommand_refuses {operands : Operand α} {x : α} {body : α → Engine (List Byte)}
    (ho : s.tapOwner = true) (hx : operands = .ok x)
    (h : body x (beginCommand (some op) s) = .error (.raised (.refused d)
      (errorRecord (.refused d) (beginCommand (some op) s))) (beginCommand (some op) s)) :
    ownedCommand op (takeOperands operands >>= body) s
      = .next (takeError (refusal (some op) d) s) :=
  ownedCommand_refused ho ((bind_ok (hx ▸ takeOperands_ok x _)).trans h)

/-! ### The obligations -/

/-- Settles O31: the exchange performs the register plan, for a payload of either form. -/
theorem regTransactionExchanges : Obligations.RegTransactionExchanges := by
  intro s address value isWrite payload c ho hv _ _ hdw hl ha hvalue hpayload h
  exact exec_regTransaction ho hl (regExchange_plan (s := beginCommand (some opRegTransaction) s)
    hv ha hvalue (payloadValue_carries hpayload hdw hvalue) h)

/-- Settles O32: the two are the exchange without a payload, and the exchange that needs one. -/
theorem regReadAndRegWrite : Obligations.RegReadAndRegWrite := by
  intro s address c ho hv _ _ hdw hl ha
  refine ⟨fun h => ?_, fun value hvalue h => ?_⟩
  · exact exec_regRead ho hl (regExchange_plan (s := beginCommand (some opRegRead) s)
      hv ha (Nat.two_pow_pos _) (payloadValue_nil _) h)
  · exact exec_regWrite ho hl (regExchange_plan (s := beginCommand (some opRegWrite) s)
      hv ha hvalue (payloadValue_beBytes false hdw hvalue) h)

/-- Settles O33: the exchange of each operation performs the detection's plan first. -/
theorem regReadDetectsFirst : Obligations.RegReadDetectsFirst := by
  intro s reset data probe iw dw address c ho hv hdata hprobe hl ha
  obtain ⟨-, -, hdw⟩ := id hdata
  refine ⟨fun h => ?_, fun isWrite value payload hvalue hpayload h => ?_, fun value hvalue h => ?_⟩
  · exact exec_regRead ho hl (regExchange_measures (s := beginCommand (some opRegRead) s)
      hv hdata hprobe ha (Nat.two_pow_pos _) (payloadValue_nil _) h)
  · exact exec_regTransaction ho hl
      (regExchange_measures (s := beginCommand (some opRegTransaction) s)
        hv hdata hprobe ha hvalue (payloadValue_carries hpayload hdw hvalue) h)
  · exact exec_regWrite ho hl (regExchange_measures (s := beginCommand (some opRegWrite) s)
      hv hdata hprobe ha hvalue (payloadValue_beBytes false hdw hvalue) h)

/-- Settles O34: with known widths the exchange judges the payload, then the address, before a
tick. -/
theorem registerRangesRefused : Obligations.RegisterRangesRefused := by
  refine ⟨fun s address ho hv ha => ⟨?_, fun isWrite payload hpayload => ?_,
    fun payload hpayload => ?_⟩, fun s address isWrite payload ho hv hlength => ⟨fun hne => ?_, ?_⟩⟩
  · exact ownedCommand_refuses ho (scalarOperand_frame address) (bind_error
      (regExchange_badAddress (s := beginCommand (some opRegRead) s) hv ha (payloadValue_nil _)))
  · exact ownedCommand_refuses ho (regTransactionOperands_frame isWrite address payload) (bind_error
      (regExchange_badAddress (s := beginCommand (some opRegTransaction) s) hv ha
        (payloadValue_taken (hpayload.symm.imp_right fun hnil => ⟨rfl, hnil⟩))))
  · exact ownedCommand_refuses ho (regWriteOperands_frame address payload) (bind_error
      (regExchange_badAddress (s := beginCommand (some opRegWrite) s) hv ha
        (payloadValue_taken (.inl hpayload))))
  · exact ownedCommand_refuses ho (regTransactionOperands_frame isWrite address payload) (bind_error
      (regExchange_badOperand (s := beginCommand (some opRegTransaction) s) hv
        (payloadValue_refused hlength fun _ => hne)))
  · exact ownedCommand_refuses ho (regWriteOperands_frame address payload) (bind_error
      (regExchange_badOperand (s := beginCommand (some opRegWrite) s) hv
        (payloadValue_refused hlength nofun)))

end Sys2Proof.Machine
end

section
/-! Operations that perform a plan (Safety.lean), and operations that raise an error after one: how
both are sequenced, and which steps of a plan an error's answer shows nothing of. -/

namespace Sys2Proof.Machine

variable {α β : Type} {P : Params} {s : State} {p q plan : List Act} {r : Raise}
  {e : ErrorRecord} {op : Byte}

/-! ### Sequencing -/

/-- An operation performs a plan where the link is ready for it, and returns `x`. -/
def Performs (m : Engine α) (plan : List Act) (x : α) (s : State) : Prop :=
  Ready plan s → m s = .ok x (performed plan s)

/-- An operation performs a plan where the link is ready for it, and ends in an error that was
raised with the record `e`. -/
def RaisesAfter (m : Engine α) (plan : List Act) (r : Raise) (e : ErrorRecord) (s : State) : Prop :=
  Ready plan s → m s = .error (.raised r e) (performed plan s)

theorem Performs.bind {m : Engine α} {f : α → Engine β} {x : α} {y : β} (hm : Performs m p x s)
    (hf : Performs (f x) q y (performed p s)) : Performs (m >>= f) (p ++ q) y s := by
  intro h
  obtain ⟨hp, hq⟩ := ready_append h
  rw [performed_append, bind_ok (hm hp), hf hq]

/-- One operation, then a pure result. -/
theorem Performs.map {m : Engine α} {x : α} (hm : Performs m p x s) (g : α → β) :
    Performs (m >>= fun x => pure (g x)) p (g x) s := fun h => bind_ok (hm h)

theorem Performs.bindRaises {m : Engine α} {f : α → Engine β} {x : α} (hm : Performs m p x s)
    (hf : RaisesAfter (f x) q r e (performed p s)) : RaisesAfter (m >>= f) (p ++ q) r e s := by
  intro h
  obtain ⟨hp, hq⟩ := ready_append h
  rw [performed_append, bind_ok (hm hp), hf hq]

/-- What comes after the operation that raises is not run. -/
theorem RaisesAfter.bind {m : Engine α} (hm : RaisesAfter m p r e s) (f : α → Engine β) :
    RaisesAfter (m >>= f) p r e s := fun h => bind_error (hm h)

/-- R266: a body that returns, then its cleanup block. -/
theorem Performs.cleanedUp {body : Engine α} {cleanup : Bool → Engine Unit} {x : α}
    (hb : Performs body p x s) (hc : Performs (cleanup false) q () (performed p s)) :
    Performs (withCleanup body cleanup) (p ++ q) x s := by
  intro h
  obtain ⟨hp, hq⟩ := ready_append h
  rw [performed_append, withCleanup_ok (hb hp) (hc hq)]

/-- R266: a body that raises, then its cleanup block. -/
theorem RaisesAfter.cleanedUp {body : Engine α} {cleanup : Bool → Engine Unit}
    (hb : RaisesAfter body p r e s) (hc : Performs (cleanup true) q () (performed p s)) :
    RaisesAfter (withCleanup body cleanup) (p ++ q) r e s := by
  intro h
  obtain ⟨hp, hq⟩ := ready_append h
  rw [performed_append, withCleanup_raised (hb hp), hc hq]

/-! ### Steps -/

theorem performs_setPhase (n : Nat) : Performs (setPhase n) [.phase n] () s := fun _ => rfl

theorem performs_sessionBegin : Performs sessionBegin [.session] () s := fun _ => rfl

theorem performs_delay (t : Nat) : Performs (delay t) [.delay t] () s :=
  fun h => delay_run t h.resets

theorem performs_runTest (cycles : Nat) (runState : TapState) (tdo : List Bool) :
    Performs (runTest cycles runState) [.run cycles runState tdo] () s :=
  fun h => runTest_act (ready_single h)

/-- R196: the end of a session in IDLE with ISC not active. -/
theorem performs_sessionEnd {phase : Nat} {failed : Bool} (hi : s.cfgIsc = false) :
    Performs (sessionEnd P phase failed) (sessionEndPlan phase) () s := sessionEnd_plan hi

/-! ### Commands -/

/-- R265: in a session, a command that takes its operands and whose operation performs a plan and
then ends in an error. -/
theorem ownedCommand_raisesAfter {operands : Operand α} {x : α} {body : α → Engine (List Byte)}
    (ho : s.tapOwner = true) (hx : operands = .ok x)
    (h : RaisesAfter (body x) plan r e (beginCommand (some op) s)) (hr : Ready plan s) :
    ownedCommand op (takeOperands operands >>= body) s
      = .next (takeError e (performed plan s)) :=
  ownedCommand_raised ho ((bind_ok (hx ▸ takeOperands_ok x _)).trans (h hr))

/-! ### Steps that an answer shows nothing of -/

/-- R101: a step that writes `seq.*` alone, which the end of a command clears. -/
def Act.writesSeq : Act → Bool
  | .phase _ | .opcode _ => true
  | _ => false

theorem Act.apply_writesSeq {a : Act} (h : a.writesSeq = true) (s : State) :
    ∃ phase opcode, a.apply s = withSeq s.seqOp phase opcode s := by
  cases a with
  | phase n => exact ⟨n, s.seqOpcode, rfl⟩
  | opcode b => exact ⟨s.seqPhase, b, rfl⟩
  | _ => cases h

/-- An error's answer is the same from states that differ in `seq.*` only. -/
theorem takeError_withSeq (e : ErrorRecord) (op : Option Byte) (phase : Nat) (opcode : Byte)
    (s : State) : takeError e (withSeq op phase opcode s) = takeError e s := rfl

theorem takeError_performed_withSeq (e : ErrorRecord) (plan : List Act) (op : Option Byte)
    (phase : Nat) (opcode : Byte) (s : State) :
    takeError e (performed plan (withSeq op phase opcode s)) = takeError e (performed plan s) := by
  obtain ⟨phase', opcode', h⟩ := performed_withSeq plan op phase opcode s
  rw [h, takeError_withSeq]

/-- R101: in an error's answer the steps that write `seq.*` leave nothing behind. -/
theorem takeError_performed_filter (e : ErrorRecord) (plan : List Act) (s : State) :
    takeError e (performed (plan.filter fun a => !a.writesSeq) s)
      = takeError e (performed plan s) := by
  induction plan generalizing s with
  | nil => rfl
  | cons a plan ih =>
    cases ha : a.writesSeq with
    | false => rw [List.filter_cons_of_pos (by simp [ha]), performed_cons, performed_cons, ih]
    | true =>
      obtain ⟨phase, opcode, hw⟩ := a.apply_writesSeq ha s
      rw [List.filter_cons_of_neg (by simp [ha]), ih, performed_cons, hw,
        takeError_performed_withSeq]

end Sys2Proof.Machine
end

section
/-! Poll loops of any length, spec/43_ecp5_sequencer.md R191 and spec/44_spi_bridge_flash.md R219,
R220: the unsuccessful polls with their clock reads and sleeps, and then a successful poll, or a
clock read past the deadline. -/

namespace Sys2Proof.Machine

variable {α : Type} {P : Params} {s : State} {poll : Engine Bool} {plan : α → List Act}
  {done : α → Bool} {c last : α} {polls : List α} {awaited : Byte} {timeout deadline : Nat}
  {advances later : List Nat}

/-! ### Unsuccessful polls -/

/-- R282: one unsuccessful poll: the poll, the clock read and the sleep. -/
def sleepPlan (P : Params) (plan : α → List Act) (c : α) : List Act :=
  plan c ++ [Act.clockRead, Act.delay P.tPollSleep]

theorem repeatedPolls_cons (P : Params) (plan : α → List Act) (c : α) (polls : List α) :
    repeatedPolls P plan (c :: polls) = sleepPlan P plan c ++ repeatedPolls P plan polls := rfl

theorem repeatedPolls_all {keeps : Act → Bool} (hplan : ∀ c, (plan c).all keeps = true)
    (hread : keeps .clockRead = true) (hsleep : keeps (.delay P.tPollSleep) = true) :
    (repeatedPolls P plan polls).all keeps = true := by
  rw [repeatedPolls, List.all_flatMap]
  simp [hplan, hread, hsleep]

theorem clockAdvance_eq {a : Nat} {rest : List Nat} (h : s.clock = a :: rest) :
    clockAdvance s = a := by rw [clockAdvance, h]; rfl

/-- R46: a poll, the clock read after it and the sleep move the clock by the advance and the
sleep. -/
theorem PollsBy.slept_time (hp : PollsBy poll plan done) {a : Nat} {rest : List Nat}
    (h : s.clock = a :: rest) :
    (performed (sleepPlan P plan c) s).time
      = s.time + a + P.tPollSleep := by
  have ha : clockAdvance (performed (plan c) s) = a := clockAdvance_eq ((hp.clock c s).trans h)
  rw [sleepPlan, performed_append, performed_cons, performed_cons, performed_nil, Act.apply,
    Act.apply, ha, hp.time]

theorem PollsBy.slept_clock (hp : PollsBy poll plan done) {a : Nat} {rest : List Nat}
    (h : s.clock = a :: rest) :
    (performed (sleepPlan P plan c) s).clock = rest := by
  rw [sleepPlan, performed_append, performed_cons, performed_cons, performed_nil, Act.apply,
    Act.apply, hp.clock, h, List.tail_cons]

/-- R282: an unsuccessful poll whose clock read is within the deadline, and its sleep. -/
theorem pollLoop_sleeps (hp : PollsBy poll plan done) (hd : done c = false) {n : Nat}
    (hin : s.time + clockAdvance s ≤ deadline)
    (h : Ready (plan c) s) : pollLoop P poll deadline awaited (n + 1) s
      = pollLoop P poll deadline awaited n
          (performed (sleepPlan P plan c) s) := by
  have hr : (performed (plan c ++ [Act.clockRead]) s).resets = [] := by
    rw [performed_resets]; exact h.resets
  rw [pollLoop_again hp hd h, if_neg (Nat.not_lt.mpr hin)]
  refine (bind_ok (delay_run _ hr)).trans ?_
  rw [sleepPlan, performed_append, performed_append]
  rfl

/-- R282: unsuccessful polls whose clock reads are within the deadline only use up polls. -/
theorem pollLoop_unsuccessful (hp : PollsBy poll plan done) (n : Nat)
    (hclock : s.clock = advances ++ later) (hl : polls.length ≤ advances.length)
    (hin : ∀ k < polls.length, s.time + readTime P advances k ≤ deadline)
    (hd : ∀ c ∈ polls, done c = false) (h : Ready (repeatedPolls P plan polls) s) :
    pollLoop P poll deadline awaited (polls.length + n) s
      = pollLoop P poll deadline awaited n (performed (repeatedPolls P plan polls) s) := by
  induction polls generalizing s advances with
  | nil => rw [List.length_nil, Nat.zero_add]; rfl
  | cons c polls ih =>
    cases advances with
    | nil => simp at hl
    | cons a advances =>
      rw [repeatedPolls_cons] at h ⊢
      obtain ⟨hfirst, hrest⟩ := ready_append h
      obtain ⟨hc, -⟩ := ready_append hfirst
      have hfirst_in : s.time + clockAdvance s ≤ deadline := by
        rw [clockAdvance_eq hclock]
        simpa [readTime_zero] using hin 0 (by simp)
      have htime := hp.slept_time (P := P) (c := c) hclock
      rw [List.length_cons, Nat.add_right_comm,
        pollLoop_sleeps hp (hd c List.mem_cons_self) hfirst_in hc,
        performed_append _ (repeatedPolls P plan polls)]
      refine ih (hp.slept_clock hclock) (by simpa using hl) (fun k hk => ?_)
        (fun c' hc' => hd c' (List.mem_cons_of_mem _ hc')) hrest
      have := hin (k + 1) (by simpa using hk)
      rw [readTime_succ] at this
      omega

/-- R46: what the clock reads after the unsuccessful polls. -/
theorem PollsBy.next_read (hp : PollsBy poll plan done) (hclock : s.clock = advances ++ later)
    (hl : polls.length < advances.length) :
    (performed (repeatedPolls P plan polls) s).time
        + clockAdvance (performed (repeatedPolls P plan polls) s)
      = s.time + readTime P advances polls.length := by
  induction polls generalizing s advances with
  | nil =>
    cases advances with
    | nil => simp at hl
    | cons a advances =>
      have ha : clockAdvance s = a := clockAdvance_eq hclock
      simp [repeatedPolls, readTime_zero, ha]
  | cons c polls ih =>
    cases advances with
    | nil => simp at hl
    | cons a advances =>
      rw [repeatedPolls_cons, performed_append, ih (hp.slept_clock hclock) (by simpa using hl),
        hp.slept_time hclock, List.length_cons, readTime_succ]
      omega

/-! ### Whole loops -/

/-- R267: the record of a `Timeout`, which names the awaited command. -/
def timeoutRecord (awaited : Byte) (s : State) : ErrorRecord :=
  { kind := .timeout, detail := 0, op := s.seqOp, phase := s.seqPhase
    opcode := awaited, errcode := 0, status := 0 }

/-- R267: steps that stay in the phase leave the record as it is. -/
theorem timeoutRecord_performed (awaited : Byte) {steps : List Act}
    (hphase : steps.all Act.keepsPhase = true) :
    timeoutRecord awaited (performed steps s) = timeoutRecord awaited s := by
  rw [timeoutRecord, performed_seqOp, performed_seqPhase hphase, timeoutRecord]

theorem errorRecord_timeout (awaited : Byte) (s : State) :
    errorRecord (.timeout awaited) s = timeoutRecord awaited s := rfl

/-- Log 12: with a positive sleep, polls within the deadline do not use up the loop's bound. -/
theorem polls_within_bound (hP : 0 < P.tPollSleep)
    (hin : ∀ k < polls.length, readTime P advances k ≤ timeout) :
    ∃ n, timeout + 2 = polls.length + (n + 1) := by
  refine ⟨timeout + 1 - polls.length, ?_⟩
  have hle : polls.length ≤ timeout + 1 := by
    rcases Nat.eq_zero_or_pos polls.length with h0 | h0
    · omega
    · have hlast := hin (polls.length - 1) (by omega)
      have hsleeps := le_readTime (P := P) advances (polls.length - 1)
      have := Nat.le_mul_of_pos_right (polls.length - 1) hP
      omega
  omega

/-- R282: the clock read that sets the deadline, and the unsuccessful polls. -/
def pollsPlan (P : Params) (plan : α → List Act) (polls : List α) : List Act :=
  Act.clockRead :: repeatedPolls P plan polls

/-- R46: what the loop's next clock read shows after them. -/
theorem PollsBy.next_read_pollsPlan {start : Nat} (hp : PollsBy poll plan done)
    (hclock : s.clock = start :: advances ++ later) (hl : polls.length < advances.length) :
    (performed (pollsPlan P plan polls) s).time
        + clockAdvance (performed (pollsPlan P plan polls) s)
      = s.time + start + readTime P advances polls.length := by
  have htime : (Act.clockRead.apply s).time = s.time + start := by
    rw [Act.apply, clockAdvance_eq hclock]
  rw [pollsPlan, performed_cons, hp.next_read (congrArg List.tail hclock) hl, htime]

/-- R282: a poll loop begins with the clock read that sets its deadline; polls whose clock reads are
within it leave at least one more poll to make. -/
theorem pollUntil_unsuccessful {start : Nat} (hp : PollsBy poll plan done) (hP : 0 < P.tPollSleep)
    (hclock : s.clock = start :: advances ++ later) (hl : polls.length ≤ advances.length)
    (hin : ∀ k < polls.length, readTime P advances k ≤ timeout)
    (hd : ∀ c ∈ polls, done c = false) (h : Ready (pollsPlan P plan polls) s) :
    ∃ n, pollUntil P timeout awaited poll s
      = pollLoop P poll (s.time + start + timeout) awaited (n + 1)
          (performed (pollsPlan P plan polls) s) := by
  obtain ⟨-, hpolls⟩ := ready_cons h
  obtain ⟨n, hn⟩ := polls_within_bound (polls := polls) hP hin
  have ha : clockAdvance s = start := clockAdvance_eq hclock
  have htime : (Act.clockRead.apply s).time = s.time + start := by rw [Act.apply, ha]
  refine ⟨n, ?_⟩
  rw [pollUntil, bind_ok (now_run h.resets), ha, hn, pollsPlan, performed_cons,
    ← pollLoop_unsuccessful hp (n + 1) (congrArg List.tail hclock) hl
      (fun k hk => by rw [htime]; have := hin k hk; omega) hd hpolls]
  rw [Act.apply, ha]

/-- R191, R219, R220: a poll loop whose last poll is successful. -/
theorem pollUntil_done {start : Nat} (hp : PollsBy poll plan done) (hP : 0 < P.tPollSleep)
    (hclock : s.clock = start :: advances ++ later) (hl : advances.length = polls.length)
    (hin : ∀ k < polls.length, readTime P advances k ≤ timeout)
    (hd : ∀ c ∈ polls, done c = false) (hlast : done last = true) :
    Performs (pollUntil P timeout awaited poll) (pollsPlan P plan polls ++ plan last) () s := by
  intro h
  obtain ⟨hpolls, hplan⟩ := ready_append h
  obtain ⟨n, hn⟩ := pollUntil_unsuccessful (awaited := awaited) hp hP hclock (Nat.le_of_eq hl.symm)
    hin hd hpolls
  rw [hn, pollLoop_done hp hlast hplan, performed_append]

/-- R191, R219, R220, R282: a poll loop whose clock read after the last poll is past the
deadline. -/
theorem pollUntil_timesOut {start : Nat} (hp : PollsBy poll plan done) (hP : 0 < P.tPollSleep)
    (hclock : s.clock = start :: advances ++ later) (hl : advances.length = polls.length + 1)
    (hin : ∀ k < polls.length, readTime P advances k ≤ timeout)
    (hout : timeout < readTime P advances polls.length)
    (hd : ∀ c ∈ polls, done c = false) (hlast : done last = false)
    (hphase : (pollsPlan P plan polls ++ (plan last ++ [Act.clockRead])).all Act.keepsPhase
      = true) :
    RaisesAfter (pollUntil P timeout awaited poll)
      (pollsPlan P plan polls ++ (plan last ++ [Act.clockRead])) (.timeout awaited)
      (timeoutRecord awaited s) s := by
  intro h
  rw [← timeoutRecord_performed awaited hphase]
  obtain ⟨hpolls, hrest⟩ := ready_append h
  obtain ⟨hplan, -⟩ := ready_append hrest
  obtain ⟨n, hn⟩ := pollUntil_unsuccessful (awaited := awaited) hp hP hclock (by omega) hin hd
    hpolls
  have hread := hp.next_read_pollsPlan (P := P) (polls := polls) hclock (by omega)
  rw [hn, pollLoop_again hp hlast hplan, if_pos (by omega),
    ← performed_append, raise_run, errorRecord_timeout]

end Sys2Proof.Machine
end

section
/-! The three waits, spec/43_ecp5_sequencer.md R191 and spec/44_spi_bridge_flash.md R219, R220, and
an `ERASE_FLASH` (R223) whose write-enable wait times out. -/

namespace Sys2Proof.Machine

variable {P : Params} {s : State} {enter : CommandScans} {enable last : Scan} {early : List Scan}
  {start : Nat} {advances later : List Nat}

/-! ### The waits -/

theorem waitForCompletion_run (P : Params) (timeout : Nat) (s : State) :
    waitForCompletion P timeout s = pollUntil P timeout s.seqOpcode (pollNotBusy P) s := rfl

theorem performs_bgSpiTransfer (out : List Byte) (c : Scan) :
    Performs (bgSpiTransfer out) (transferPlan out c) c.wireBytes s := bgSpiTransfer_plan

/-- A flash transaction reads no clock. -/
theorem performed_transferPlan_clock (out : List Byte) (c : Scan) (s : State) :
    (performed (transferPlan out c) s).clock = s.clock := performed_clock rfl

/-- Settles O40: each wait is a poll loop that is done at the last of its polls; the write-enable
command is sent before its loop. -/
theorem waitPollsUntilNotBusy : Obligations.WaitPollsUntilNotBusy := by
  refine fun s timeout start advances later hclock =>
    ⟨fun busy last hl hin hbusy hlast h => ?_, fun awaited busy last hl hin hbusy hlast h => ?_,
      fun enable early last hl hin hearly hlast h => ?_⟩
  · rw [waitForCompletion_run]
    exact pollUntil_done pollNotBusy_plan pollSleep_pos hclock hl hin
      (fun c hc => by simp [hbusy c hc]) (by simp [hlast]) h
  · exact pollUntil_done pollFlashIdle_plan pollSleep_pos hclock hl hin
      (fun c hc => by simp [hbusy c hc]) (by simp [hlast]) h
  · rw [List.append_assoc] at h ⊢
    exact (performs_bgSpiTransfer _ enable).bind (pollUntil_done pollFlashWel_plan pollSleep_pos
      ((performed_transferPlan_clock _ enable s).trans hclock) hl hin hearly hlast) h

/-! ### Timeouts -/

theorem pollsPlan_busy_keepsPhase (P : Params) (busy : List ScanPair) (last : ScanPair) :
    (pollsPlan P (statusPlan P) busy ++ (statusPlan P last ++ [Act.clockRead])).all Act.keepsPhase
      = true := by
  rw [pollsPlan, List.all_append, List.all_cons, ← busyPolls, busyPolls_keepsPhase]
  rfl

theorem pollsPlan_flash_keepsPhase (P : Params) (polls : List Scan) (last : Scan) :
    (pollsPlan P (flashStatusPlan P) polls ++ (flashStatusPlan P last ++ [Act.clockRead])).all
      Act.keepsPhase = true := by
  rw [pollsPlan, List.all_append, List.all_cons, ← flashPolls, flashPolls_keepsPhase]
  rfl

/-- R220, R282: no poll shows the write-enabled bit, and the clock read after the last one is the
first past the deadline. -/
def EnableTimesOut (P : Params) (advances : List Nat) (early : List Scan) (last : Scan) : Prop :=
  advances.length = early.length + 1
  ∧ (∀ k < early.length, readTime P advances k ≤ P.tCtrlTimeout)
  ∧ P.tCtrlTimeout < readTime P advances early.length
  ∧ (∀ c ∈ early, flashWel P c.flashStatusByte = false)
  ∧ flashWel P last.flashStatusByte = false

theorem enableTimeoutPlan_eq (P : Params) (enable : Scan) (early : List Scan) (last : Scan) :
    enableTimeoutPlan P enable early last = transferPlan [P.flWriteEnable] enable
      ++ (pollsPlan P (flashStatusPlan P) early
        ++ (flashStatusPlan P last ++ [Act.clockRead])) := by
  simp only [enableTimeoutPlan, pollsPlan, flashPolls, List.append_assoc]

theorem flashWriteEnable_timesOut (hP : 0 < P.tPollSleep)
    (hclock : s.clock = start :: advances ++ later) (ht : EnableTimesOut P advances early last) :
    RaisesAfter (flashWriteEnable P) (enableTimeoutPlan P enable early last)
      (.timeout P.flWriteEnable) (timeoutRecord P.flWriteEnable s) s := by
  obtain ⟨hl, hin, hout, hearly, hlast⟩ := ht
  have hloop := pollUntil_timesOut (awaited := P.flWriteEnable) pollFlashWel_plan hP
    ((performed_transferPlan_clock [P.flWriteEnable] enable s).trans hclock) hl hin hout hearly
    hlast (pollsPlan_flash_keepsPhase P early last)
  rw [timeoutRecord_performed P.flWriteEnable (by rfl)] at hloop
  rw [enableTimeoutPlan_eq, flashWriteEnable]
  exact (performs_bgSpiTransfer [P.flWriteEnable] enable).bindRaises hloop

theorem enableTimeoutPlan_keepsIsc (P : Params) (enable : Scan) (early : List Scan)
    (last : Scan) : (enableTimeoutPlan P enable early last).all Act.keepsIsc = true := by
  rw [enableTimeoutPlan_eq, List.all_append, List.all_append, pollsPlan, List.all_cons,
    repeatedPolls_all (fun _ => rfl) rfl rfl]
  rfl

/-- R223: `ERASE_FLASH` up to its phase 2. -/
def eraseEnterPlan (P : Params) (enter : CommandScans) : List Act :=
  [Act.session, Act.phase 1] ++ backgroundSpiPlan P enter ++ [Act.phase 2]

theorem performs_enterBackgroundSpi (enter : CommandScans) :
    Performs (enterBackgroundSpi P) (backgroundSpiPlan P enter) () s := enterBackgroundSpi_plan

/-- R223, R266: the timeout ends the body, and the teardown runs; the erase command is not sent. -/
theorem eraseFlash_timesOut (hP : 0 < P.tPollSleep)
    (hclock : s.clock = start :: advances ++ later) (ht : EnableTimesOut P advances early last) :
    RaisesAfter (eraseFlash P)
      (eraseEnterPlan P enter ++ enableTimeoutPlan P enable early last ++ sessionEndPlan 4)
      (.timeout P.flWriteEnable)
      (timeoutRecord P.flWriteEnable (performed (eraseEnterPlan P enter) s)) s := by
  have hplan : eraseEnterPlan P enter ++ enableTimeoutPlan P enable early last ++ sessionEndPlan 4
      = [Act.session] ++ ([Act.phase 1] ++ (backgroundSpiPlan P enter ++ ([Act.phase 2]
        ++ enableTimeoutPlan P enable early last)) ++ sessionEndPlan 4) := by
    simp only [eraseEnterPlan, List.append_assoc, List.cons_append, List.nil_append]
  have hentered : performed (eraseEnterPlan P enter) s = performed [Act.phase 2]
      (performed (backgroundSpiPlan P enter)
        (performed [Act.phase 1] (performed [Act.session] s))) := by
    simp only [eraseEnterPlan, performed_append, performed_cons, performed_nil]
  have hclock' : (performed (eraseEnterPlan P enter) s).clock = start :: advances ++ later := by
    rw [performed_clock, hclock]
    rfl
  have henable := flashWriteEnable_timesOut (enable := enable) hP hclock' ht
  have hisc : (performed ([Act.phase 1] ++ (backgroundSpiPlan P enter
      ++ ([Act.phase 2] ++ enableTimeoutPlan P enable early last)))
        (performed [Act.session] s)).cfgIsc = false := by
    rw [performed_cfgIsc]
    · rfl
    · simp only [List.all_append, enableTimeoutPlan_keepsIsc]; rfl
  rw [hentered] at henable
  rw [hplan, hentered, eraseFlash]
  exact performs_sessionBegin.bindRaises <| RaisesAfter.cleanedUp
    ((performs_setPhase 1).bindRaises <| (performs_enterBackgroundSpi enter).bindRaises <|
      (performs_setPhase 2).bindRaises <| henable.bind _) (performs_sessionEnd hisc)

/-- Settles O41: each wait is a poll loop that raises at its last clock read; in `ERASE_FLASH` that
ends the body. -/
theorem waitTimesOut : Obligations.WaitTimesOut := by
  refine fun s timeout start advances later hclock =>
    ⟨fun busy last hl hin hout hbusy hlast h => ?_,
      fun awaited busy last hl hin hout hbusy hlast h => ?_,
      fun enable early last hl hin hout hearly hlast => ?_⟩
  · rw [List.append_assoc] at h ⊢
    exact (waitForCompletion_run _ _ s).trans <| pollUntil_timesOut pollNotBusy_plan pollSleep_pos
      hclock hl hin hout (fun c hc => by simp [hbusy c hc]) (by simp [hlast])
      (pollsPlan_busy_keepsPhase _ busy last) h
  · rw [List.append_assoc] at h ⊢
    exact pollUntil_timesOut pollFlashIdle_plan pollSleep_pos hclock hl hin hout
      (fun c hc => by simp [hbusy c hc]) (by simp [hlast])
      (pollsPlan_flash_keepsPhase _ busy last) h
  · have ht : EnableTimesOut Config.params advances early last := ⟨hl, hin, hout, hearly, hlast⟩
    refine ⟨fun h => ?_, fun enter ho h => ?_⟩
    · exact flashWriteEnable_timesOut pollSleep_pos hclock ht h
    · have hrecord : timeoutRecord Config.params.flWriteEnable
          (performed (eraseEnterPlan Config.params enter) (beginCommand (some opEraseFlash) s))
          = { kind := .timeout, detail := 0, op := some 0x32#8, phase := 2
              opcode := Config.params.flWriteEnable, errcode := 0, status := 0 } := by
        rw [timeoutRecord, performed_seqOp, eraseEnterPlan, performed_append]
        rfl
      have hrun := eraseFlash_timesOut (s := beginCommand (some opEraseFlash) s) (enter := enter)
        (enable := enable) pollSleep_pos hclock ht
      rw [hrecord] at hrun
      simp only [eraseEnterPlan, List.append_assoc, List.cons_append, List.nil_append] at h hrun ⊢
      exact ownedCommand_raisesAfter ho noOperands_noFields (hrun.bind _) h

end Sys2Proof.Machine
end

section
/-! CFGSEQ's commands on a link that answers, spec/43_ecp5_sequencer.md R197 to R200: each performs
its plan. -/

namespace Sys2Proof.Machine

variable {P : Params} {s : State} {bitstream : List Byte} {c : ConfigureScans}

/-! ### The micro-operations as steps -/

theorem performs_restart (c : CommandScans) : Performs (restart P) (restartPlan P c) () s :=
  restart_plan

theorem performs_preconfigure (c : CommandScans) :
    Performs (preconfigure P) (preconfigurePlan P c) () s := preconfigure_plan

theorem performs_iscEnable {c : CommandScans} {status : ScanPair}
    (hp : passes P status.data.word32 ⟨false, true, false⟩) :
    Performs (iscEnable P) (iscEnablePlan P c status) () s := iscEnable_plan hp

theorem performs_eraseAndWait {erase : CommandScans} {poll check : ScanPair}
    (hb : (decodeStatus P poll.data.word32).busy = false) :
    Performs (eraseAndWait P) (erasePlan P erase poll check) () s := eraseAndWait_plan hb

theorem performs_initAddress (c : CommandScans) :
    Performs (initAddress P) (initAddressPlan P c) () s := initAddress_plan

theorem performs_burst (bitstream : List Byte) (c : ScanPair) :
    Performs (burst P bitstream) (burstPlan P bitstream c) () s := burst_plan

theorem performs_readPartId {c : ScanPair} (hd : noDeviceId c.data.word32 = false) :
    Performs (readPartId P) (partIdPlan P c) c.data.word32 s := readPartId_plan hd

theorem performs_checkStatus {check : StatusCheck} {c : ScanPair}
    (hp : passes P c.data.word32 check) :
    Performs (checkStatus P check) (checkPlan P check c) () s := checkStatus_plan hp

theorem performs_iscDisable {check : StatusCheck} {c : CommandScans} {status : ScanPair}
    (hp : passes P status.data.word32 check) :
    Performs (iscDisable P (some check)) (iscDisablePlan P c ++ checkPlan P check status) () s :=
  iscDisable_checked hp

/-! ### `TRIGGER_RECONFIGURATION`, R200 -/

theorem performs_triggerReconfiguration (restart : CommandScans) (idle : List Bool) :
    Performs (triggerReconfiguration P) (triggerPlan P restart idle) () s :=
  (performs_restart restart).bind (performs_runTest P.nReconfIdle .idle idle)

theorem exec_triggerReconfiguration (f : HostFields) (s : State) :
    exec (.triggerReconfiguration f) s = ownedCommand opTriggerReconfiguration
      (takeOperands (noOperands f) >>= fun _ => triggerReconfiguration Config.params
        >>= fun _ => pure []) s := rfl

/-- Settles O39: a restart in the configured mode, then the idle ticks. -/
theorem triggerReconfigurationCompletes : Obligations.TriggerReconfigurationCompletes := by
  intro s restart idle ho h
  rw [exec_triggerReconfiguration]
  exact ownedCommand_performs ho noOperands_noFields
    ((performs_triggerReconfiguration restart idle).map (fun _ => []) h)

/-! ### What the plans leave alone -/

theorem performed_iscEnablePlan_cfgIsc (c : CommandScans) (status : ScanPair) {rest : List Act}
    (h : rest.all Act.keepsIsc = true) :
    (performed (iscEnablePlan P c status ++ rest) s).cfgIsc = true := by
  rw [iscEnablePlan, List.cons_append, List.cons_append, performed_cons, performed_cfgIsc]
  · rfl
  · rw [List.all_append, List.all_append, commandPlan_keepsIsc, checkPlan_keepsIsc, h]; rfl

theorem performed_iscDisablePlan_cfgIsc (c : CommandScans) {rest : List Act}
    (h : rest.all Act.keepsIsc = true) :
    (performed (iscDisablePlan P c ++ rest) s).cfgIsc = false := by
  rw [iscDisablePlan, List.cons_append, performed_cons, performed_cfgIsc]
  · rfl
  · rw [List.all_append, commandPlan_keepsIsc, h]; rfl

theorem performed_partIdPlan_cfgPartId (c : ScanPair) {rest : List Act}
    (h : rest.all Act.keepsPartId = true) :
    (performed (partIdPlan P c ++ rest) s).cfgPartId = some c.data.word32 := by
  rw [performed_append, performed_cfgPartId h]; rfl

theorem erasePlan_keepsIsc (erase : CommandScans) (poll check : ScanPair) :
    (erasePlan P erase poll check).all Act.keepsIsc = true := by
  rw [erasePlan, List.all_append, List.all_append, iscErasePlan, commandPlan_keepsIsc,
    checkPlan_keepsIsc]
  rfl

theorem erasePlan_keepsPartId (erase : CommandScans) (poll check : ScanPair) :
    (erasePlan P erase poll check).all Act.keepsPartId = true := by
  rw [erasePlan, List.all_append, List.all_append, iscErasePlan, commandPlan_keepsPartId,
    checkPlan_keepsPartId]
  rfl

theorem iscEnablePlan_keepsPartId (c : CommandScans) (status : ScanPair) :
    (iscEnablePlan P c status).all Act.keepsPartId = true := by
  rw [iscEnablePlan, List.all_append, List.all_cons, commandPlan_keepsPartId,
    checkPlan_keepsPartId]
  rfl

theorem iscDisablePlan_keepsPartId (c : CommandScans) :
    (iscDisablePlan P c).all Act.keepsPartId = true := by
  rw [iscDisablePlan, List.all_cons, commandPlan_keepsPartId]; rfl

/-! ### `UNCONFIGURE`, R199 -/

/-- R199: the body of `UNCONFIGURE`, to the phase that disables ISC. -/
def unconfigureErasePlan (P : Params) (c : UnconfigureScans) : List Act :=
  [Act.phase 1] ++ restartPlan P c.restart ++ [Act.delay P.tSettle, Act.phase 2]
  ++ preconfigurePlan P c.preconfigure ++ [Act.phase 3] ++ iscEnablePlan P c.iscEnable c.iscEnabled
  ++ [Act.phase 4] ++ erasePlan P c.erase c.erasePoll c.eraseCheck ++ [Act.phase 5]

theorem performs_unconfigureBody {c : UnconfigureScans} (hc : c.completes P) :
    Performs (unconfigureBody P) (unconfigureErasePlan P c
      ++ (iscDisablePlan P c.iscDisable ++ checkPlan P ⟨false, false, false⟩ c.finalCheck))
      () s := by
  obtain ⟨henabled, hpoll, hfinal⟩ := hc
  simp only [unconfigureErasePlan, List.append_assoc, List.cons_append, List.nil_append]
  exact (performs_setPhase 1).bind <| (performs_restart _).bind <| (performs_delay _).bind <|
    (performs_setPhase 2).bind <| (performs_preconfigure _).bind <|
    (performs_setPhase 3).bind <| (performs_iscEnable henabled).bind <|
    (performs_setPhase 4).bind <| (performs_eraseAndWait hpoll).bind <|
    (performs_setPhase 5).bind <| performs_iscDisable hfinal

theorem unconfigurePlan_eq (P : Params) (c : UnconfigureScans) : unconfigurePlan P c
    = [Act.session] ++ (unconfigureErasePlan P c
      ++ (iscDisablePlan P c.iscDisable ++ checkPlan P ⟨false, false, false⟩ c.finalCheck)
      ++ sessionEndPlan 6) := by
  simp only [unconfigurePlan, unconfigureErasePlan, List.append_assoc, List.cons_append,
    List.nil_append]

theorem performs_unconfigure {c : UnconfigureScans} (hc : c.completes P) :
    Performs (unconfigure P) (unconfigurePlan P c) () s := by
  have hisc : (performed (unconfigureErasePlan P c ++ (iscDisablePlan P c.iscDisable
      ++ checkPlan P ⟨false, false, false⟩ c.finalCheck)) (performed [Act.session] s)).cfgIsc
        = false := by
    rw [performed_append, performed_iscDisablePlan_cfgIsc _ (checkPlan_keepsIsc _ _)]
  rw [unconfigurePlan_eq]
  exact performs_sessionBegin.bind <|
    (performs_unconfigureBody hc).cleanedUp (performs_sessionEnd hisc)

theorem exec_unconfigure (f : HostFields) (s : State) :
    exec (.unconfigure f) s = ownedCommand opUnconfigure
      (takeOperands (noOperands f) >>= fun _ => unconfigure Config.params >>= fun _ => pure []) s :=
  rfl

/-- Settles O38: the five steps in a session, and its teardown. -/
theorem unconfigureCompletes : Obligations.UnconfigureCompletes := by
  intro s c ho hc h
  rw [exec_unconfigure]
  exact ownedCommand_performs ho noOperands_noFields ((performs_unconfigure hc).map (fun _ => []) h)

/-! ### `CONFIGURE`, R197 -/

/-- R195, R197: a session begins, and the busy pattern is written. -/
def configureOpen (P : Params) : Engine Unit := do
  sessionBegin
  indicator P.indBusy
  setPattern P.indBusy

/-- R197: the phases of `CONFIGURE` before the status read that must show `done`. -/
def configureProgram (P : Params) (bitstream : List Byte) : Engine Unit := do
  setPhase 1
  let _ ← readPartId P
  setPhase 2
  restart P
  delay P.tSettle
  setPhase 3
  preconfigure P
  setPhase 4
  iscEnable P
  setPhase 5
  eraseAndWait P
  setPhase 6
  initAddress P
  burst P bitstream
  setPhase 7
  runTest P.nCfgIdle .drPause
  setPhase 8

theorem configure_eq (hb : bitstream ≠ []) : configure P bitstream
    = (configureOpen P >>= fun _ => withCleanup (configureBody P bitstream) (configureEnd P)
      >>= fun _ => observe (fun s => partIdBytes s.cfgPartId)) := by
  have hr : refuseIf bitstream.isEmpty .badLength = pure () := by simp [refuseIf, hb]
  simp only [configure, configureOpen, hr, bind_assoc, pure_bind]

theorem configureBody_eq (P : Params) (bitstream : List Byte) : configureBody P bitstream
    = (configureProgram P bitstream >>= fun _ => checkStatus P ⟨true, false, false⟩
      >>= fun _ => setPhase 9 >>= fun _ => iscDisable P (some ⟨true, false, false⟩)) := by
  simp only [configureBody, configureProgram, bind_assoc]

theorem performs_configureOpen (P : Params) :
    Performs (configureOpen P) [Act.session, Act.indicator P.indBusy] () s :=
  performs_sessionBegin.bind fun h => bind_ok (indicator_run P.indBusy h.resets)

/-- The phases of `CONFIGURE` after the part id is read, to the one that enables ISC. -/
def configureRestartPlan (P : Params) (c : ConfigureScans) : List Act :=
  [Act.phase 2] ++ restartPlan P c.restart ++ [Act.delay P.tSettle, Act.phase 3]
  ++ preconfigurePlan P c.preconfigure ++ [Act.phase 4]

/-- The phases of `CONFIGURE` after ISC is enabled, to the status read that must show `done`. -/
def configureLoadPlan (P : Params) (bitstream : List Byte) (c : ConfigureScans) : List Act :=
  [Act.phase 5] ++ erasePlan P c.erase c.erasePoll c.eraseCheck ++ [Act.phase 6]
  ++ initAddressPlan P c.initAddress ++ burstPlan P bitstream c.burst
  ++ [Act.phase 7, Act.run P.nCfgIdle .drPause c.burstIdle, Act.phase 8]

/-- The phases of `CONFIGURE` before the status read that must show `done`. -/
def configureProgramPlan (P : Params) (bitstream : List Byte) (c : ConfigureScans) : List Act :=
  [Act.phase 1] ++ partIdPlan P c.partId ++ configureRestartPlan P c
  ++ (iscEnablePlan P c.iscEnable c.iscEnabled ++ configureLoadPlan P bitstream c)

theorem performs_configureProgram (hc : c.starts P) :
    Performs (configureProgram P bitstream) (configureProgramPlan P bitstream c) () s := by
  obtain ⟨hid, henabled, hpoll⟩ := hc
  simp only [configureProgramPlan, configureRestartPlan, configureLoadPlan, List.append_assoc,
    List.cons_append, List.nil_append]
  exact (performs_setPhase 1).bind <| (performs_readPartId hid).bind <|
    (performs_setPhase 2).bind <| (performs_restart _).bind <| (performs_delay _).bind <|
    (performs_setPhase 3).bind <| (performs_preconfigure _).bind <|
    (performs_setPhase 4).bind <| (performs_iscEnable henabled).bind <|
    (performs_setPhase 5).bind <| (performs_eraseAndWait hpoll).bind <|
    (performs_setPhase 6).bind <| (performs_initAddress _).bind <| (performs_burst _ _).bind <|
    (performs_setPhase 7).bind <| (performs_runTest _ _ _).bind <| performs_setPhase 8

theorem configureLoadPlan_keepsIsc (P : Params) (bitstream : List Byte) (c : ConfigureScans) :
    (configureLoadPlan P bitstream c).all Act.keepsIsc = true := by
  simp only [configureLoadPlan, List.all_cons, List.all_append, erasePlan_keepsIsc,
    initAddressPlan, commandPlan_keepsIsc]
  rfl

theorem configureRestartPlan_keepsPartId (P : Params) (c : ConfigureScans) :
    (configureRestartPlan P c).all Act.keepsPartId = true := by
  simp only [configureRestartPlan, List.all_cons, List.all_append, restartPlan_keepsPartId,
    preconfigurePlan, commandPlan_keepsPartId]
  rfl

theorem configureLoadPlan_keepsPartId (P : Params) (bitstream : List Byte) (c : ConfigureScans) :
    (configureLoadPlan P bitstream c).all Act.keepsPartId = true := by
  simp only [configureLoadPlan, List.all_cons, List.all_append, erasePlan_keepsPartId,
    initAddressPlan, commandPlan_keepsPartId]
  rfl

/-! ### `CONFIGURE` to its end -/

/-- The phases of `CONFIGURE` from the status read that must show `done`. -/
def configureFinishPlan (P : Params) (c : ConfigureScans) : List Act :=
  checkPlan P ⟨true, false, false⟩ c.doneCheck ++ [Act.phase 9]
  ++ (iscDisablePlan P c.iscDisable ++ checkPlan P ⟨true, false, false⟩ c.finalCheck)

theorem performs_configureBody (hs : c.starts P) (hc : c.completes P) :
    Performs (configureBody P bitstream)
      (configureProgramPlan P bitstream c ++ configureFinishPlan P c) () s := by
  obtain ⟨hdone, hfinal⟩ := hc
  rw [configureBody_eq, configureFinishPlan, List.append_assoc]
  exact (performs_configureProgram hs).bind <| (performs_checkStatus hdone).bind <|
    (performs_setPhase 9).bind <| performs_iscDisable hfinal

theorem configurePlan_eq (P : Params) (bitstream : List Byte) (c : ConfigureScans) :
    configurePlan P bitstream c = [Act.session, Act.indicator P.indBusy]
      ++ (configureProgramPlan P bitstream c ++ configureFinishPlan P c ++ configureEndPlan P) := by
  simp only [configurePlan, configureStartPlan, configureDonePlan, configureProgramPlan,
    configureRestartPlan, configureLoadPlan, configureFinishPlan, List.append_assoc,
    List.cons_append, List.nil_append]

/-- R28: the captured id is there when `CONFIGURE` returns. -/
theorem performed_configurePlan_cfgPartId :
    (performed (configurePlan P bitstream c) s).cfgPartId = some c.partId.data.word32 := by
  have hrest : (configureRestartPlan P c ++ (iscEnablePlan P c.iscEnable c.iscEnabled
      ++ (configureLoadPlan P bitstream c ++ (configureFinishPlan P c ++ configureEndPlan P)))).all
        Act.keepsPartId = true := by
    simp only [List.all_append, configureRestartPlan_keepsPartId, iscEnablePlan_keepsPartId,
      configureLoadPlan_keepsPartId, configureFinishPlan, checkPlan_keepsPartId, List.all_cons,
      iscDisablePlan_keepsPartId]
    rfl
  rw [configurePlan_eq, performed_append, configureProgramPlan]
  simp only [List.append_assoc]
  rw [performed_append [Act.phase 1], performed_partIdPlan_cfgPartId _ hrest]

theorem performs_configure (hb : bitstream ≠ []) (hs : c.starts P) (hc : c.completes P) :
    Performs (configure P bitstream) (configurePlan P bitstream c) (be4 c.partId.data.word32)
      s := by
  intro h
  have hisc : (performed (configureProgramPlan P bitstream c ++ configureFinishPlan P c)
      (performed [Act.session, Act.indicator P.indBusy] s)).cfgIsc = false := by
    rw [performed_append, configureFinishPlan, performed_append,
      performed_iscDisablePlan_cfgIsc _ (checkPlan_keepsIsc _ _)]
  have hrun : Performs (configureOpen P >>= fun _ =>
      withCleanup (configureBody P bitstream) (configureEnd P)) (configurePlan P bitstream c) ()
      s := by
    rw [configurePlan_eq]
    exact (performs_configureOpen P).bind <|
      (performs_configureBody hs hc).cleanedUp fun h => configureEnd_plan false hisc h
  rw [configure_eq hb, ← bind_assoc, bind_ok (hrun h), observe_run,
    performed_configurePlan_cfgPartId]
  rfl

theorem exec_configure (bitstream : List Byte) (s : State) :
    exec (.configure ⟨0#8, 0#32, 0#32, bitstream⟩) s = ownedCommand opConfigure
      (takeOperands (configureOperands ⟨0#8, 0#32, 0#32, bitstream⟩)
        >>= configure Config.params) s := rfl

/-- Settles O35: the nine steps in a session, its teardown, and the captured id. -/
theorem configureCompletes : Obligations.ConfigureCompletes := by
  intro s bitstream c ho hb hs hc h
  rw [exec_configure]
  exact ownedCommand_performs ho (configureOperands_frame bitstream) (performs_configure hb hs hc h)

end Sys2Proof.Machine
end

section
/-! `CONFIGURE` on a link that answers but shows no device, or a status word with a violation,
spec/43_ecp5_sequencer.md R190, R194, R197 and spec/60_exceptions.md R265 to R267: the error's
record, and the cleanup that follows it. -/

namespace Sys2Proof.Machine

variable {P : Params} {s : State} {bitstream : List Byte} {c : ConfigureScans} {id : ScanPair}
  {r : Raise} {e : ErrorRecord}

/-- R265, R266: an error in the body of `CONFIGURE`, where its cleanup then returns. -/
theorem configure_raised {t u : State} (hb : bitstream ≠ [])
    (hr : Ready [Act.session, Act.indicator P.indBusy] s)
    (hbody : configureBody P bitstream (performed [Act.session, Act.indicator P.indBusy] s)
      = .error (.raised r e) t)
    (hend : configureEnd P true t = .ok () u) :
    configure P bitstream s = .error (.raised r e) u := by
  rw [configure_eq hb, bind_ok (performs_configureOpen P hr)]
  exact bind_error (by rw [withCleanup_raised hbody, hend])

/-! ### No device, R194 -/

/-- R194: the identity read. -/
def identityPlan (P : Params) (id : ScanPair) : List Act :=
  [Act.opcode P.opcReadId, Act.instruction P.opcReadId.toNat 8 .irPause id.instruction,
    Act.data (ones 32) .idle id.data]

/-- R194, R267: the record of an identity that is none. -/
def noDeviceRecord (P : Params) (s : State) : ErrorRecord :=
  { kind := .configurationMismatch, detail := 2, op := s.seqOp, phase := s.seqPhase
    opcode := P.opcReadId, errcode := 0, status := 0 }

theorem errorRecord_noDevice :
    errorRecord (.configurationMismatch .noDevice) (performed (identityPlan P id) s)
      = noDeviceRecord P s := by
  rw [errorRecord, raiseOpcode, performed_seqOp, performed_seqPhase (by rfl), identityPlan,
    performed_cons, performed_seqOpcode (by rfl)]
  · rfl
  · exact nofun

theorem readPartId_noDevice (hd : noDeviceId id.data.word32 = true) :
    RaisesAfter (readPartId P) (identityPlan P id) (.configurationMismatch .noDevice)
      (noDeviceRecord P s) s := by
  intro h
  rw [← errorRecord_noDevice (id := id)]
  obtain ⟨-, h⟩ := ready_cons h
  obtain ⟨hinstruction, h⟩ := ready_cons h
  have hd' : noDeviceId (BitVec.ofNat 32 (toInt (ofBits id.data.word))) = true := hd
  rw [readPartId]
  refine (bind_ok (setOpcode_run _ _)).trans ?_
  refine (bind_ok (shiftInstruction_act hinstruction)).trans ?_
  refine (bind_ok (shiftData_act (tdi := none) rfl rfl (ready_single h))).trans ?_
  rw [hd', if_pos rfl]
  rfl

/-- R197: `CONFIGURE` where there is no device: phase 1, and the cleanup. -/
def noDevicePlan (P : Params) (id : ScanPair) : List Act :=
  [Act.session, Act.indicator P.indBusy]
  ++ ([Act.phase 1] ++ identityPlan P id ++ configureEndPlan P)

/-- R145: the cleanup moves from IDLE to IDLE, so the identity read makes all the ticks. -/
theorem ready_noDevicePlan (h : Ready (identityPlan P id) s) : Ready (noDevicePlan P id) s := by
  obtain ⟨⟨-, hinstruction, hdata, -⟩, hs⟩ := h
  exact ⟨⟨trivial, trivial, trivial, trivial, hinstruction, hdata, trivial, rfl, trivial, trivial,
    trivial⟩, hs⟩

theorem configure_noDevice (hb : bitstream ≠ []) (hd : noDeviceId id.data.word32 = true) :
    RaisesAfter (configure P bitstream) (noDevicePlan P id) (.configurationMismatch .noDevice)
      (noDeviceRecord P { s with seqPhase := 1 }) s := by
  have hbody : RaisesAfter (configureBody P bitstream) ([Act.phase 1] ++ identityPlan P id)
      (.configurationMismatch .noDevice) (noDeviceRecord P { s with seqPhase := 1 })
      (performed [Act.session, Act.indicator P.indBusy] s) :=
    (performs_setPhase 1).bindRaises ((readPartId_noDevice hd).bind _)
  intro h
  obtain ⟨hopen, h⟩ := ready_append h
  obtain ⟨hfirst, hend⟩ := ready_append h
  rw [noDevicePlan, performed_append, performed_append]
  exact configure_raised hb hopen (hbody hfirst) (configureEnd_plan true rfl hend)

/-- Settles O36: phase 1 raises, and nothing but the cleanup follows. -/
theorem configureWithoutDevice : Obligations.ConfigureWithoutDevice := by
  intro s bitstream id ho hb hd h
  rw [exec_configure, ownedCommand_raisesAfter ho (configureOperands_frame bitstream)
    (configure_noDevice hb ((noDeviceId_iff _).mpr hd)) (ready_noDevicePlan h),
    ← takeError_performed_filter, ← takeError_performed_filter _ (_ ++ _)]
  rfl

/-! ### A rejected status word, R190 -/

/-- R190, R267: the record of a violation that a status check finds. -/
def violationRecord (P : Params) (v : Violation) (status : Word32) (s : State) : ErrorRecord :=
  { kind := .protocolViolation, detail := violationCode v, op := s.seqOp, phase := s.seqPhase
    opcode := P.opcLscReadStatus, errcode := (decodeStatus P status).errcode, status := status }

theorem checkStatus_violation {check : StatusCheck} {status : ScanPair} {v : Violation}
    {rest : List Violation} (hc : check.continueAnyway = false)
    (hv : violations (decodeStatus P status.data.word32) check.requireDone check.requireIsc
      = v :: rest) :
    RaisesAfter (checkStatus P check) (checkPlan P check status)
      (.protocolViolation v (decodeStatus P status.data.word32).errcode status.data.word32)
      (violationRecord P v status.data.word32 s) s := by
  intro h
  rw [checkStatus_fails hc hv h, errorRecord, raiseOpcode, performed_seqOp,
    performed_seqPhase (checkPlan_keepsPhase _ _), performed_checkPlan_seqOpcode]
  · rfl
  · exact nofun

/-- R197: `CONFIGURE` up to the status read that must show `done`, within its session. -/
def configureCheckedPlan (P : Params) (bitstream : List Byte) (c : ConfigureScans) : List Act :=
  configureProgramPlan P bitstream c ++ checkPlan P ⟨true, false, false⟩ c.doneCheck

theorem configureStartPlan_append_donePlan (P : Params) (bitstream : List Byte)
    (c : ConfigureScans) : configureStartPlan P bitstream c ++ configureDonePlan P c
      = [Act.session, Act.indicator P.indBusy] ++ configureCheckedPlan P bitstream c := by
  simp only [configureStartPlan, configureDonePlan, configureCheckedPlan, configureProgramPlan,
    configureRestartPlan, configureLoadPlan, List.append_assoc, List.cons_append, List.nil_append]

theorem performed_configureProgramPlan_seqPhase :
    (performed (configureProgramPlan P bitstream c) s).seqPhase = 8 := by
  rw [configureProgramPlan, configureLoadPlan, performed_append, performed_append, performed_append]
  rfl

/-- R28: the read is made with ISC active, so the cleanup has to disable it. -/
theorem performed_configureCheckedPlan_cfgIsc :
    (performed (configureCheckedPlan P bitstream c) s).cfgIsc = true := by
  rw [configureCheckedPlan, performed_append, performed_cfgIsc (checkPlan_keepsIsc _ _),
    configureProgramPlan, performed_append,
    performed_iscEnablePlan_cfgIsc _ _ (configureLoadPlan_keepsIsc P bitstream c)]

theorem configureBody_rejected {v : Violation} {rest : List Violation} (hs : c.starts P)
    (hv : violations (decodeStatus P c.doneCheck.data.word32) true false = v :: rest) :
    RaisesAfter (configureBody P bitstream) (configureCheckedPlan P bitstream c)
      (.protocolViolation v (decodeStatus P c.doneCheck.data.word32).errcode
        c.doneCheck.data.word32)
      (violationRecord P v c.doneCheck.data.word32 { s with seqPhase := 8 }) s := by
  have hrecord : violationRecord P v c.doneCheck.data.word32 { s with seqPhase := 8 }
      = violationRecord P v c.doneCheck.data.word32
        (performed (configureProgramPlan P bitstream c) s) := by
    rw [violationRecord, violationRecord, performed_seqOp, performed_configureProgramPlan_seqPhase]
  rw [configureBody_eq, hrecord]
  exact (performs_configureProgram hs).bindRaises ((checkStatus_violation rfl hv).bind _)

/-- An error's answer is the same from states that agree but for `seq.*`. -/
theorem takeError_congr {t u : State} {op : Option Byte} {phase : Nat} {opcode : Byte}
    (h : withSeq op phase opcode t = withSeq op phase opcode u) :
    takeError e t = takeError e u := by
  rw [← takeError_withSeq e op phase opcode t, h, takeError_withSeq]

/-- Settles O37: the check of phase 8 raises its first violation with ISC active, and the cleanup
disables it. -/
theorem configureRejectedStatus : Obligations.ConfigureRejectedStatus := by
  intro s bitstream c v rest ho hb hs hv h
  rw [configureStartPlan_append_donePlan, List.append_assoc, List.append_assoc] at h ⊢
  obtain ⟨hopen, h'⟩ := ready_append (ready_beginCommand (some opConfigure) h)
  obtain ⟨hbody, hend⟩ := ready_append h'
  obtain ⟨t, ht, phase, opcode, hseq⟩ :=
    configureEnd_isc c.iscDisable performed_configureCheckedPlan_cfgIsc hend
  have hrun := configure_raised hb hopen (configureBody_rejected hs hv hbody) ht
  rw [exec_configure, ownedCommand_owner _ _ _ ho, configureOperands_frame,
    bind_ok (takeOperands_ok bitstream _), hrun, commandOutcome, takeError_congr hseq,
    ← performed_append, ← performed_append, takeError_performed]
  rfl

end Sys2Proof.Machine
end

section
/-! The indicator over a whole `CONFIGURE`, whatever the oracles answer, spec/43_ecp5_sequencer.md
R197 and spec/60_exceptions.md R266: the busy pattern first, the idle pattern last. -/

namespace Sys2Proof.Machine

variable {α : Type} {P : Params} {s t : State} {bitstream : List Byte} {allowed : Write → Prop}

/-- R266: where every start that the body can leave makes the cleanup block end in a property, the
operation ends in it. -/
theorem Ending.withCleanup {Q : State → Prop} {result : α → Prop} {body : Engine α}
    {cleanup : Bool → Engine Unit} (hb : Within allowed result body)
    (hc : ∀ failed t, Reach allowed s t → Ending Q (cleanup failed t)) :
    Ending Q (Machine.withCleanup body cleanup s) := by
  have hbody := hb s
  cases hs : body s with
  | ok x t =>
    rw [hs] at hbody
    have hend := hc false t hbody.1
    simp only [Machine.withCleanup, hs]
    cases ht : cleanup false t with
    | ok y u => rw [ht] at hend; exact hend
    | error e u => rw [ht] at hend; cases e <;> exact hend
  | error e t =>
    rw [hs] at hbody
    cases e with
    | raised r record =>
      have hend := hc true t hbody.1
      rw [withCleanup_raised hs]
      cases ht : cleanup true t with
      | ok y u => rw [ht] at hend; exact hend
      | error e u => rw [ht] at hend; cases e <;> exact hend
    | stuck => exact hbody.2.elim
    | reset => rw [withCleanup_reset hs]; trivial

/-- R29, R283: the pattern was written last, after everything that an earlier state's trace
shows. -/
def PatternLast (p : Nat) (s t : State) : Prop :=
  t.indPattern = p ∧ ∃ events, t.trace = Event.indicator p :: (events ++ s.trace)

/-- R197: the cleanup of `CONFIGURE` writes the idle pattern after its teardown, on every exit. -/
theorem configureEnd_patternLast (P : Params) (failed : Bool) (s : State) :
    Ending (PatternLast P.indIdle s) (configureEnd P failed s) := by
  rw [configureEnd, bind_ok (setPhase_run _ _)]
  have hwithin := within_teardown P failed { s with seqPhase := 10 }
  have hunraised := (teardown_closes P failed).1 { s with seqPhase := 10 }
  rw [bind_run]
  cases hteardown : teardown P failed { s with seqPhase := 10 } with
  | error e t =>
    rw [hteardown] at hunraised
    cases e with
    | raised => exact hunraised.elim
    | stuck | reset => trivial
  | ok pending t =>
    rw [hteardown] at hwithin
    obtain ⟨events, htrace, -⟩ := hwithin.1.tracks
    simp only [bind_run, indicator, primitive_run]
    cases resetDue t with
    | true => trivial
    | false => exact raisePending_keeps pending _ ⟨rfl, events, congrArg _ htrace⟩

/-- R197: `CONFIGURE` of a bitstream writes the busy pattern first and the idle pattern last. -/
theorem configure_patternLast (hP : 0 < P.tPollSleep) (hr : s.resets = []) (hb : bitstream ≠ []) :
    Ending (fun t => t.indPattern = P.indIdle ∧ ∃ events, t.trace
      = Event.indicator P.indIdle :: events ++ Event.indicator P.indBusy :: s.trace)
      (configure P bitstream s) := by
  rw [configure_eq hb, bind_ok (performs_configureOpen P ⟨⟨trivial, trivial, trivial⟩,
    supplies_nil hr⟩)]
  refine Ending.bind
    (Q := PatternLast P.indIdle (performed [Act.session, Act.indicator P.indBusy] s))
    (Ending.withCleanup (within_configureBody hP bitstream) fun failed t ht => ?_)
    (fun _ h => h) fun _ _ h => h
  obtain ⟨made, htrace, -⟩ := ht.tracks
  refine (configureEnd_patternLast P failed t).mono fun u ⟨hpattern, events, hu⟩ =>
    ⟨hpattern, events ++ made, ?_⟩
  rw [hu, htrace, ← List.append_assoc]

/-- R101, R290: where no reset comes, what an operation ends in, its command answers from. -/
theorem commandOutcome_answers {Q : State → Prop} {result : List Byte → Prop}
    {body : Engine (List Byte)} (hw : Within allowed result body) (hr : s.resets = [])
    (hq : Ending Q (body s)) :
    ∃ u t, commandOutcome (body s) = .next t ∧ Q u ∧ t.indPattern = u.indPattern
      ∧ t.trace = u.trace := by
  have h := hw s
  cases hs : body s with
  | ok data u => rw [hs] at hq; exact ⟨u, _, rfl, hq, rfl, rfl⟩
  | error e u =>
    rw [hs] at h hq
    cases e with
    | raised r record => exact ⟨u, _, rfl, hq, rfl, rfl⟩
    | stuck => exact h.2.elim
    | reset =>
      have hdue : resetDue u = true := h.2
      simp [resetDue, h.1.resets_nil hr] at hdue

/-- Settles O59: the cleanup runs on every path, and writes the idle pattern after all else. -/
theorem configureRestoresIdlePattern : Obligations.ConfigureRestoresIdlePattern := by
  intro s bitstream ho hr hb
  obtain ⟨u, t, ht, ⟨hpattern, events, htrace⟩, hind, hevents⟩ := commandOutcome_answers
    (s := beginCommand (some opConfigure) s) (within_configure pollSleep_pos bitstream) hr
    (configure_patternLast pollSleep_pos hr hb)
  refine ⟨t, ?_, hind.trans hpattern, events, hevents.trans htrace⟩
  rw [exec_configure, ownedCommand_owner _ _ _ ho, configureOperands_frame,
    bind_ok (takeOperands_ok bitstream _), ht]

end Sys2Proof.Machine
end

section
/-! SPIB's flash-family commands, spec/44_spi_bridge_flash.md R221 to R226: each works inside one
background-SPI session, from its begin to its teardown, and is refused before the session where its
range is bad. -/

namespace Sys2Proof.Machine

variable {α : Type} {P : Params} {s : State} {enter : CommandScans} {plan : List Act}
  {offset length : Nat} {bitstream : List Byte}

/-! ### The background-SPI session -/

/-- R195, R216, R196: what the flash-family operations share: a session begins, background SPI is
entered, the operation works from phase 2 on, and the teardown has phase `n`. -/
def flashSession (P : Params) (n : Nat) (work : Engine α) : Engine α := do
  sessionBegin
  withCleanup (do
    setPhase 1
    enterBackgroundSpi P
    setPhase 2
    work) (sessionEnd P n)

/-- The steps of a background-SPI session whose work performs `plan`. -/
def flashSessionPlan (P : Params) (enter : CommandScans) (n : Nat) (plan : List Act) : List Act :=
  [Act.session] ++ ([Act.phase 1] ++ (backgroundSpiPlan P enter ++ ([Act.phase 2] ++ plan))
    ++ sessionEndPlan n)

theorem backgroundSpiPlan_keepsIsc (enter : CommandScans) :
    (backgroundSpiPlan P enter).all Act.keepsIsc = true := by
  rw [backgroundSpiPlan, List.all_append, commandPlan_keepsIsc]; rfl

/-- Work that never marks ISC active leaves the teardown nothing but a move to IDLE, where the TAP
already is. -/
theorem performs_flashSession {n : Nat} {work : Engine α} {x : α}
    (hwork : ∀ t, Performs work plan x t) (hisc : plan.all Act.keepsIsc = true) :
    Performs (flashSession P n work) (flashSessionPlan P enter n plan) x s := by
  have hentered : (performed ([Act.phase 1] ++ (backgroundSpiPlan P enter ++ ([Act.phase 2]
      ++ plan))) (performed [Act.session] s)).cfgIsc = false := by
    rw [performed_cfgIsc]
    · rfl
    · simp only [List.all_append, backgroundSpiPlan_keepsIsc, hisc]; rfl
  exact performs_sessionBegin.bind <| Performs.cleanedUp
    ((performs_setPhase 1).bind <| (performs_enterBackgroundSpi enter).bind <|
      (performs_setPhase 2).bind <| hwork _) (performs_sessionEnd hentered)

/-! ### `READ_FLASH_ID` and `READ_FLASH_UID`, R221, R222 -/

theorem flashReadPlan_eq (P : Params) (frame : List Byte) (enter : CommandScans) (c : Scan) :
    flashReadPlan P frame enter c = flashSessionPlan P enter 3 (transferPlan frame c) := by
  simp only [flashReadPlan, flashSessionPlan, List.append_assoc, List.cons_append, List.nil_append]

theorem readFlashId_eq (P : Params) : readFlashId P
    = (flashSession P 3 (bgSpiTransfer (jedecFrame P)) >>= fun response =>
        pure (jedecBytes response)) := by
  simp only [readFlashId, flashSession, bind_assoc]

theorem readFlashUid_eq (P : Params) : readFlashUid P
    = (flashSession P 3 (bgSpiTransfer (readUidFrame P)) >>= fun response =>
        pure (uidBytes response)) := by
  simp only [readFlashUid, flashSession, bind_assoc]

/-- R217: a session that is one transaction returns that transaction's response. -/
theorem performs_flashRead (frame : List Byte) (c : Scan) :
    Performs (flashSession P 3 (bgSpiTransfer frame)) (flashReadPlan P frame enter c) c.wireBytes
      s := by
  rw [flashReadPlan_eq]
  exact performs_flashSession (fun _ => performs_bgSpiTransfer frame c) rfl

theorem performs_readFlashId (c : Scan) :
    Performs (readFlashId P) (flashReadPlan P (jedecFrame P) enter c) (jedecBytes c.wireBytes)
      s := by
  rw [readFlashId_eq]
  exact (performs_flashRead (jedecFrame P) c).map jedecBytes

theorem performs_readFlashUid (c : Scan) :
    Performs (readFlashUid P) (flashReadPlan P (readUidFrame P) enter c) (uidBytes c.wireBytes)
      s := by
  rw [readFlashUid_eq]
  exact (performs_flashRead (readUidFrame P) c).map uidBytes

theorem exec_readFlashId (f : HostFields) (s : State) :
    exec (.readFlashId f) s = ownedCommand opReadFlashId
      (takeOperands (noOperands f) >>= fun _ => readFlashId Config.params) s := rfl

theorem exec_readFlashUid (f : HostFields) (s : State) :
    exec (.readFlashUid f) s = ownedCommand opReadFlashUid
      (takeOperands (noOperands f) >>= fun _ => readFlashUid Config.params) s := rfl

/-- Settles O42: each identity read is a session of one transaction, and a trim of its response. -/
theorem flashIdentityReads : Obligations.FlashIdentityReads := by
  refine fun s enter c ho => ⟨fun h => ?_, fun h => ?_⟩
  · rw [exec_readFlashId]
    exact ownedCommand_performs ho noOperands_noFields (performs_readFlashId c h)
  · rw [exec_readFlashUid]
    exact ownedCommand_performs ho noOperands_noFields (performs_readFlashUid c h)

/-! ### `ERASE_FLASH`, R223 -/

theorem performs_flashWriteEnable {c : ModifyScans}
    (hw : flashWel P c.enabled.flashStatusByte = true) :
    Performs (flashWriteEnable P) (writeEnablePlan P c) () s := flashWriteEnable_plan hw

theorem performs_flashWaitIdle (timeout : Nat) (awaited : Byte) {c : Scan}
    (hb : flashBusy P c.flashStatusByte = false) :
    Performs (flashWaitIdle P timeout awaited) ([Act.clockRead] ++ flashStatusPlan P c) () s :=
  flashWaitIdle_plan hb

/-- R223: the work of `ERASE_FLASH` in its session, phases 2 and 3. -/
def eraseFlashWork (P : Params) : Engine Unit := do
  flashWriteEnable P
  setPhase 3
  let _ ← bgSpiTransfer [P.flChipErase]
  flashWaitIdle P P.tLongTimeout P.flChipErase

theorem eraseFlash_eq (P : Params) : eraseFlash P = flashSession P 4 (eraseFlashWork P) := rfl

theorem eraseFlashPlan_eq (P : Params) (enter : CommandScans) (c : ModifyScans) :
    eraseFlashPlan P enter c = flashSessionPlan P enter 4
      (writeEnablePlan P c ++ ([Act.phase 3] ++ modifyPlan P [P.flChipErase] c)) := by
  simp only [eraseFlashPlan, flashSessionPlan, List.append_assoc, List.cons_append,
    List.nil_append]

theorem performs_eraseFlashWork {c : ModifyScans} (hc : c.succeeds P) :
    Performs (eraseFlashWork P)
      (writeEnablePlan P c ++ ([Act.phase 3] ++ modifyPlan P [P.flChipErase] c)) () s := by
  obtain ⟨hwel, hbusy⟩ := hc
  rw [modifyPlan, List.append_assoc (transferPlan _ _)]
  exact (performs_flashWriteEnable hwel).bind <| (performs_setPhase 3).bind <|
    (performs_bgSpiTransfer _ c.command).bind <| performs_flashWaitIdle _ _ hbusy

theorem performs_eraseFlash {c : ModifyScans} (hc : c.succeeds P) :
    Performs (eraseFlash P) (eraseFlashPlan P enter c) () s := by
  rw [eraseFlash_eq, eraseFlashPlan_eq]
  exact performs_flashSession (fun _ => performs_eraseFlashWork hc) rfl

theorem exec_eraseFlash (f : HostFields) (s : State) :
    exec (.eraseFlash f) s = ownedCommand opEraseFlash
      (takeOperands (noOperands f) >>= fun _ => eraseFlash Config.params >>= fun _ => pure []) s :=
  rfl

/-- Settles O43: the write-enable, the erase and its wait in a session. -/
theorem eraseFlashCompletes : Obligations.EraseFlashCompletes := by
  intro s enter c ho hc h
  rw [exec_eraseFlash]
  exact ownedCommand_performs ho noOperands_noFields ((performs_eraseFlash hc).map (fun _ => []) h)

/-! ### The ranges of `FLASH` and `READ_FLASH`, R224, R226 -/

/-- R264: a range test that passes does nothing. -/
theorem refuseIf_passed {condition : Bool} {d : RefusedDetail} (h : condition = false) :
    refuseIf condition d = pure () := by rw [refuseIf, h]; rfl

theorem refuseIf_aligned (h : offset % 256 = 0) :
    refuseIf (offset % Config.pageSize ≠ 0) .misaligned = pure () :=
  refuseIf_passed (decide_eq_false (not_not.mpr h))

theorem refuseIf_inRange (h : offset + length ≤ 2 ^ 24) :
    refuseIf (Config.flashBytes < offset + length) .badAddress = pure () :=
  refuseIf_passed (decide_eq_false (not_lt.mpr h))

theorem flashWrite_misaligned (P : Params) {op : FlashWrite} (h : op.offset % 256 ≠ 0) :
    Refuses .misaligned (flashWrite P op) :=
  (Refuses.refuseIf (decide_eq_true h)).bind _

/-- R269: the alignment is tested before the range. -/
theorem flashWrite_badAddress (P : Params) {op : FlashWrite} (ha : op.offset % 256 = 0)
    (h : 2 ^ 24 < op.offset + op.bitstream.length) : Refuses .badAddress (flashWrite P op) :=
  ((Refuses.refuseIf (decide_eq_true h)).bind _).pass (decide_eq_false (not_not.mpr ha))

theorem readFlash_badAddress (P : Params) (h : 2 ^ 24 < offset + length) :
    Refuses .badAddress (readFlash P offset length) :=
  (Refuses.refuseIf (decide_eq_true h)).bind _

theorem exec_flash (f : HostFields) (s : State) :
    exec (.flash f) s = ownedCommand opFlash
      (takeOperands (flashOperands f) >>= fun op => flashWrite Config.params op
        >>= fun _ => pure []) s := rfl

theorem exec_readFlash (f : HostFields) (s : State) :
    exec (.readFlash f) s = ownedCommand opReadFlash
      (takeOperands (readFlashOperands f) >>= fun op => readFlash Config.params op.1 op.2) s := rfl

/-- Settles O46: the range tests come before the session. -/
theorem flashRangesRefused : Obligations.FlashRangesRefused := by
  refine fun s offset ho =>
    ⟨fun unprotect eraseFirst bitstream => ⟨fun h => ?_, fun ha h => ?_⟩, fun length h => ?_⟩
  · rw [exec_flash]
    exact (Refuses.onOperands (flashOperands_frame unprotect eraseFirst offset bitstream)
      ((flashWrite_misaligned _ h).bind _)).command ho
  · rw [exec_flash]
    exact (Refuses.onOperands (flashOperands_frame unprotect eraseFirst offset bitstream)
      ((flashWrite_badAddress _ ha h).bind _)).command ho
  · rw [exec_readFlash]
    exact (Refuses.onOperands (readFlashOperands_frame offset length)
      (readFlash_badAddress _ h)).command ho

/-! ### `READ_FLASH`, R226 -/

theorem performs_readPages (k : Nat) (chunks : List Scan) :
    Performs (readPages P offset length k chunks.length) (chunksPlan P offset length k chunks)
      (chunks.flatMap fun c => c.wireBytes.drop 4) s := readPages_plan

theorem readFlash_eq (P : Params) (h : offset + length ≤ 2 ^ 24) : readFlash P offset length
    = flashSession P 3 (readPages P offset length 0 (pages length)) := by
  rw [readFlash, refuseIf_inRange h, pure_bind, flashSession]

theorem readFlashPlan_eq (P : Params) (offset length : Nat) (enter : CommandScans)
    (chunks : List Scan) : readFlashPlan P offset length enter chunks
      = flashSessionPlan P enter 3 (chunksPlan P offset length 0 chunks) := by
  simp only [readFlashPlan, flashSessionPlan, List.append_assoc, List.cons_append, List.nil_append]

theorem performs_readFlash {chunks : List Scan} (h : offset + length ≤ 2 ^ 24)
    (hchunks : chunks.length = pages length) :
    Performs (readFlash P offset length) (readFlashPlan P offset length enter chunks)
      (chunks.flatMap fun c => c.wireBytes.drop 4) s := by
  rw [readFlash_eq P h, ← hchunks, readFlashPlan_eq]
  exact performs_flashSession (fun _ => performs_readPages 0 chunks)
    (chunksPlan_keepsIsc offset length 0 chunks)

/-- R226: an offset or a length within the flash fits its field of the frame. -/
theorem flashWord_toNat {n : Nat} (h : n ≤ 2 ^ 24) : (BitVec.ofNat 32 n).toNat = n := by
  rw [BitVec.toNat_ofNat, Nat.mod_eq_of_lt (by omega)]

/-- Settles O45: the chunks in a session, and their data joined. -/
theorem readFlashReads : Obligations.ReadFlashReads := by
  intro s offset length enter chunks ho hrange hchunks h
  have hoperands := readFlashOperands_frame (BitVec.ofNat 32 offset) (BitVec.ofNat 32 length)
  rw [flashWord_toNat (by omega), flashWord_toNat (by omega)] at hoperands
  rw [exec_readFlash]
  exact ownedCommand_performs ho hoperands (performs_readFlash hrange hchunks h)

/-! ### `FLASH`, R224 -/

theorem performs_flashModify (frame : List Byte) (timeout : Nat) (awaited : Byte)
    {c : ModifyScans} (hc : c.succeeds P) :
    Performs (flashModify P frame timeout awaited) (writeEnablePlan P c ++ modifyPlan P frame c) ()
      s := flashModify_plan hc

theorem performs_writePages (k : Nat) {pages : List ModifyScans}
    (hc : ∀ c ∈ pages, ModifyScans.succeeds P c) :
    Performs (writePages P bitstream offset k pages.length) (pagesPlan P bitstream offset k pages)
      () s := writePages_plan hc

/-- A step of `FLASH` behind one of its options. -/
theorem performs_runIf {option : Bool} {m : Engine Unit}
    (h : option = true → Performs m plan () s) :
    Performs (runIf option m) (if option then plan else []) () s := by
  cases option with
  | false => exact fun _ => rfl
  | true => exact h rfl

theorem ite_keepsIsc {option : Bool} (h : plan.all Act.keepsIsc = true) :
    (if option then plan else []).all Act.keepsIsc = true := by
  cases option with
  | false => rfl
  | true => exact h

/-- R224: the work of `FLASH` in its session, phases 2 to 4. -/
def flashWork (P : Params) (op : FlashWrite) : Engine Unit := do
  runIf op.unprotect (flashModify P (writeStatusFrame P) P.tCtrlTimeout P.flWriteStatus)
  setPhase 3
  runIf op.eraseFirst (chipErase P)
  setPhase 4
  writePages P op.bitstream op.offset 0 (pages op.bitstream.length)

/-- R224: the steps of that work. -/
def flashWorkPlan (P : Params) (op : FlashWrite) (c : FlashScans) : List Act :=
  (if op.unprotect then
    writeEnablePlan P c.unprotect ++ modifyPlan P (writeStatusFrame P) c.unprotect else [])
  ++ ([Act.phase 3] ++ ((if op.eraseFirst then
    writeEnablePlan P c.erase ++ modifyPlan P [P.flChipErase] c.erase else [])
  ++ ([Act.phase 4] ++ pagesPlan P op.bitstream op.offset 0 c.pages)))

theorem performs_flashWork {op : FlashWrite} {c : FlashScans}
    (hc : c.completes P op.unprotect op.eraseFirst op.bitstream) :
    Performs (flashWork P op) (flashWorkPlan P op c) () s := by
  obtain ⟨hunprotect, herase, hpages, hcount⟩ := hc
  have hwrite : ∀ t, Performs (writePages P op.bitstream op.offset 0 (pages op.bitstream.length))
      (pagesPlan P op.bitstream op.offset 0 c.pages) () t := fun _ =>
    (show c.pages.length = pages op.bitstream.length from hcount) ▸ performs_writePages 0 hpages
  exact (performs_runIf fun hu => performs_flashModify _ _ _ (hunprotect hu)).bind <|
    (performs_setPhase 3).bind <|
    (performs_runIf fun he => performs_flashModify _ _ _ (herase he)).bind <|
    (performs_setPhase 4).bind <| hwrite _

theorem flashWorkPlan_keepsIsc (P : Params) (op : FlashWrite) (c : FlashScans) :
    (flashWorkPlan P op c).all Act.keepsIsc = true := by
  simp only [flashWorkPlan, List.all_append, pagesPlan_keepsIsc]
  rw [ite_keepsIsc (by rfl), ite_keepsIsc (by rfl)]
  rfl

theorem flashWrite_eq (P : Params) {op : FlashWrite} (ha : op.offset % 256 = 0)
    (h : op.offset + op.bitstream.length ≤ 2 ^ 24) : flashWrite P op
      = (flashSession P 5 (flashWork P op) >>= fun _ => setPhase 6 >>= fun _ =>
          triggerReconfiguration P) := by
  rw [flashWrite, refuseIf_aligned ha, refuseIf_inRange h]
  simp only [flashSession, flashWork, flashBody, pure_bind, bind_assoc]

theorem flashPlan_eq (P : Params) (op : FlashWrite) (c : FlashScans) :
    flashPlan P op.unprotect op.eraseFirst op.offset op.bitstream c
      = flashSessionPlan P c.enter 5 (flashWorkPlan P op c)
        ++ ([Act.phase 6] ++ triggerPlan P c.restart c.idle) := by
  simp only [flashPlan, flashSessionPlan, flashWorkPlan, writeStatusFrame, List.append_assoc,
    List.cons_append, List.nil_append]

theorem performs_flashWrite {op : FlashWrite} {c : FlashScans} (ha : op.offset % 256 = 0)
    (h : op.offset + op.bitstream.length ≤ 2 ^ 24)
    (hc : c.completes P op.unprotect op.eraseFirst op.bitstream) :
    Performs (flashWrite P op)
      (flashPlan P op.unprotect op.eraseFirst op.offset op.bitstream c) () s := by
  rw [flashWrite_eq P ha h, flashPlan_eq]
  exact (performs_flashSession (fun _ => performs_flashWork hc)
    (flashWorkPlan_keepsIsc P op c)).bind <| (performs_setPhase 6).bind <|
    performs_triggerReconfiguration c.restart c.idle

/-- Settles O44: the options and the pages in a session, and the trigger after it. -/
theorem flashWritesEveryPage : Obligations.FlashWritesEveryPage := by
  intro s unprotect eraseFirst offset bitstream c ho ha hrange hc h
  have hoperands := flashOperands_frame unprotect eraseFirst (BitVec.ofNat 32 offset) bitstream
  rw [flashWord_toNat (by omega)] at hoperands
  rw [exec_flash]
  exact ownedCommand_performs ho hoperands ((performs_flashWrite (op := ⟨unprotect, eraseFirst,
    offset, bitstream⟩) ha hrange hc).map (fun _ => []) h)

end Sys2Proof.Machine
end

section
/-! SPIB's debug commands, spec/45_spi_debug.md R246 to R251: each takes its operands and makes one
SPI exchange, tunneled or direct as the engine's variant says. -/

namespace Sys2Proof.Machine

variable {α β : Type} {P : Params} {s : State} {op : Byte} {invertCs : Bool}
  {data received result : List Byte} {c : ScanPair}

/-! ### Operations of one SPI exchange -/

/-- From every state whose target side is ready to exchange `data` for `received`, an operation makes
that exchange, changes nothing else, and returns `x`. -/
def MakesSpiExchange (P : Params) (m : Engine α) (invertCs : Bool) (data : List Byte) (c : ScanPair)
    (received : List Byte) (x : α) : Prop :=
  ∀ s, SpiReady P data c received s → m s = .ok x (spiDone P invertCs data c received s)

/-- The exchange, then a pure result. -/
theorem MakesSpiExchange.map {m : Engine α} {x : α}
    (h : MakesSpiExchange P m invertCs data c received x) (g : α → β) :
    MakesSpiExchange P (m >>= fun x => pure (g x)) invertCs data c received (g x) :=
  fun s hr => bind_ok (h s hr)

/-- R246, R247: the transfer of some bytes is one exchange of them. -/
theorem makesSpiExchange_spiTransfer (hd : data ≠ []) :
    MakesSpiExchange P (spiTransfer P data invertCs) invertCs data c received received :=
  fun _ hr => spiTransfer_ready hd hr

/-- The start of a command writes nothing that the target side's readiness depends on. -/
theorem spiReady_beginCommand (op : Option Byte) (h : SpiReady P data c received s) :
    SpiReady P data c received (beginCommand op s) := h

/-- R101: in a session with a ready target side, a command that takes its operands and whose operation
is one exchange. -/
theorem ownedCommand_spiExchange {operands : Operand α} {x : α} {body : α → Engine (List Byte)}
    (ho : s.tapOwner = true) (hx : operands = .ok x) (hr : SpiReady P data c received s)
    (h : MakesSpiExchange P (body x) invertCs data c received result) :
    ownedCommand op (takeOperands operands >>= body) s
      = .next (finishCommand result (spiDone P invertCs data c received s)) := by
  rw [ownedCommand_owner _ _ _ ho, hx, bind_ok (takeOperands_ok x _),
    h _ (spiReady_beginCommand (some op) hr), commandOutcome, finishCommand_spiDone]

/-! ### `SPI_TRANSFER`, R246 and R247 -/

theorem exec_spiTransfer (f : HostFields) (s : State) :
    exec (.spiTransfer f) s = ownedCommand opSpiTransfer
      (takeOperands (spiTransferOperands f) >>= fun op => spiTransfer Config.params op.2 op.1) s :=
  rfl

/-- Settles O47: the command's operation is the one exchange. -/
theorem spiTransferExchanges : Obligations.SpiTransferExchanges := by
  intro s invertCs data c received ho hd hr
  rw [exec_spiTransfer]
  exact ownedCommand_spiExchange ho (spiTransferOperands_frame invertCs data) hr
    (makesSpiExchange_spiTransfer hd)

/-! ### The debug register commands, R249 to R251 -/

/-- R95: the model's parameters are the decided widths. -/
theorem decidedSpiWidths_params : DecidedSpiWidths Config.params := ⟨rfl, rfl⟩

/-- R249: the register exchange of an address in range sends the address byte and the value, and
returns bytes 1 to 4. -/
theorem makesSpiExchange_spiRegTransaction {address : Nat} (isWrite : Bool) (value : Word32)
    (ha : address < 128) :
    MakesSpiExchange Config.params (spiRegTransaction Config.params address isWrite value) false
      (BitVec.ofNat 8 ((if isWrite then 128 else 0) + address) :: be4 value) c received
      ((received.drop 1).take 4) :=
  fun _ hr => spiRegTransaction_ready decidedSpiWidths_params ha hr

/-- R250: of a read, the address byte is the address alone. -/
theorem makesSpiExchange_spiRegRead {address : Nat} (ha : address < 128) :
    MakesSpiExchange Config.params (spiRegTransaction Config.params address false 0) false
      (BitVec.ofNat 8 address :: be4 0) c received ((received.drop 1).take 4) := by
  simpa only [Bool.false_eq_true, if_false, Nat.zero_add] using
    makesSpiExchange_spiRegTransaction false 0 ha

/-- R249: an address out of range is refused before anything is exchanged. -/
theorem refuses_spiRegTransaction {address : Nat} (isWrite : Bool) (value : Word32)
    (ha : 128 ≤ address) :
    Refuses .badAddress (spiRegTransaction Config.params address isWrite value) :=
  fun _ => spiRegTransaction_badAddress decidedSpiWidths_params ha

theorem exec_spiRegTransaction (f : HostFields) (s : State) :
    exec (.spiRegTransaction f) s = ownedCommand opSpiRegTransaction
      (takeOperands (spiRegTransactionOperands f) >>= fun op =>
        spiRegTransaction Config.params op.1 op.2.1 op.2.2) s := rfl

theorem exec_spiRegRead (f : HostFields) (s : State) :
    exec (.spiRegRead f) s = ownedCommand opSpiRegRead
      (takeOperands (scalarOperand f) >>= fun address =>
        spiRegTransaction Config.params address false 0) s := rfl

theorem exec_spiRegWrite (f : HostFields) (s : State) :
    exec (.spiRegWrite f) s = ownedCommand opSpiRegWrite
      (takeOperands (spiRegWriteOperands f) >>= fun op =>
        spiRegTransaction Config.params op.1 true op.2 >>= fun _ => pure []) s := rfl

/-- Settles O48: in range each command's operation is the register exchange, whose result a write
drops; out of range it refuses. -/
theorem spiRegisterExchanges : Obligations.SpiRegisterExchanges := by
  refine ⟨fun s address c received ho ha => ⟨fun isWrite value hr => ?_, fun hr => ?_,
    fun value hr => ?_⟩, fun s address value isWrite ho ha => ⟨?_, ?_, ?_⟩⟩
  · rw [exec_spiRegTransaction]
    exact ownedCommand_spiExchange ho (spiRegTransactionOperands_frame isWrite address value) hr
      (makesSpiExchange_spiRegTransaction isWrite value ha)
  · rw [exec_spiRegRead]
    exact ownedCommand_spiExchange ho (scalarOperand_frame address) hr
      (makesSpiExchange_spiRegRead ha)
  · rw [exec_spiRegWrite]
    exact ownedCommand_spiExchange ho (spiRegWriteOperands_frame address value) hr
      ((makesSpiExchange_spiRegTransaction true value ha).map fun _ => [])
  · rw [exec_spiRegTransaction]
    exact (Refuses.onOperands (spiRegTransactionOperands_frame isWrite address value)
      (refuses_spiRegTransaction isWrite value ha)).command ho
  · rw [exec_spiRegRead]
    exact (Refuses.onOperands (scalarOperand_frame address)
      (refuses_spiRegTransaction false 0 ha)).command ho
  · rw [exec_spiRegWrite]
    exact (Refuses.onOperands (spiRegWriteOperands_frame address value)
      ((refuses_spiRegTransaction true value ha).bind _)).command ho

end Sys2Proof.Machine
end

section
/-! A `TAP_RESET` that a link fault or the reset input stops, spec/41_tap_controller.md R146,
spec/60_exceptions.md R262, R265, R272 and spec/70_reset_and_hazards.md R290: the command is its
walk of five ticks, and how the walk stops is in Laws/Exchanges.lean. -/

namespace Sys2Proof.Machine

variable {s : State} {tdo : List Bool} {rest : List LinkAnswer}

/-- R262: what a tick raises on an answer of the link that is no bit. -/
def linkRaise : LinkAnswer → Option Raise
  | .bit _ => none
  | .notSupported => some .notSupported
  | .io => some (.transportError .linkIo)
  | .timeout => some (.transportError .linkTimeout)
  | .malformed => some (.transportError .malformed)

/-- R52, R262: a tick at which the link faults raises, and only the exchange has been made. -/
theorem tick_fault {tms tdi : Bool} {r : Raise} (hr : s.resets = [])
    (hf : linkRaise (linkAnswer s) = some r) :
    tick tms tdi s = .error (.raised r (errorRecord r s)) (nextLink s) := by
  rw [tick, primitive_undisturbed _ hr, linkExchange_run]
  cases ha : linkAnswer s with
  | bit b => rw [ha] at hf; cases hf
  | _ => rw [ha] at hf; cases hf; rfl

/-- R101: in a session the command is the five ticks of its operation. -/
theorem exec_tapReset (ho : s.tapOwner = true) :
    exec (.tapReset noFields) s = commandOutcome ((tapReset >>= fun _ => pure [])
      (beginCommand (some opTapReset) s)) :=
  (ownedCommand_owner _ _ s ho).trans <| by rw [noOperands_noFields]; rfl

/-- R262, R265: a fault within the five ticks is the command's answer. -/
theorem exec_tapReset_fault {fault : LinkAnswer} {r : Raise} (ho : s.tapOwner = true)
    (hr : s.resets = []) (hl : tdo.length < 5) (hs : s.link = tdo.map .bit ++ fault :: rest)
    (hf : linkRaise fault = some r) :
    exec (.tapReset noFields) s = .next (takeError
      (errorRecord r (beginCommand (some opTapReset) s))
      { s with
        tapState := walkState s.tapState (List.replicate tdo.length true)
        trace := (tdo.map fun b => Event.tick true false b s.tapBitbang).reverse ++ s.trace
        link := rest
        linkCount := s.linkCount + tdo.length + 1 }) := by
  have hwalk := walk_fault (s := beginCommand (some opTapReset) s) (r := r) hr hl hs
    fun s' hr' ha => tick_fault hr' (ha ▸ hf)
  rw [exec_tapReset ho, tapReset, bind_error (bind_error hwalk)]
  rfl

/-- R290 (3): reset between two ticks abandons the command there. -/
theorem exec_tapReset_reset {later : List Nat} (ho : s.tapOwner = true) (hl : tdo.length < 5)
    (hr : s.resets = tdo.length :: later) (hs : s.link = tdo.map .bit ++ rest) :
    exec (.tapReset noFields) s = .next (assertReset
      { s with
        trace := (tdo.map fun b => Event.tick true false b s.tapBitbang).reverse ++ s.trace
        link := rest
        linkCount := s.linkCount + tdo.length
        resets := 0 :: later }) := by
  have hwalk := walk_reset (s := beginCommand (some opTapReset) s) hl hr hs
  rw [exec_tapReset ho, tapReset, bind_error (bind_error hwalk)]
  rfl

/-- Settles O23: each of the four faults raises what R262 says, and reset stops the same walk. -/
theorem linkFaultStopsTapReset : Obligations.LinkFaultStopsTapReset := by
  refine ⟨fun s tdo rest fault kind detail ho hr hl hfault hs => ?_,
    fun s tdo rest later ho hl hr hs => exec_tapReset_reset ho hl hr hs⟩
  simp only [List.mem_cons, Prod.mk.injEq, List.not_mem_nil, or_false] at hfault
  obtain ⟨rfl, rfl, rfl⟩ | ⟨rfl, rfl, rfl⟩ | ⟨rfl, rfl, rfl⟩ | ⟨rfl, rfl, rfl⟩ := hfault
  · exact exec_tapReset_fault (r := .notSupported) ho hr hl hs rfl
  · exact exec_tapReset_fault (r := .transportError .linkIo) ho hr hl hs rfl
  · exact exec_tapReset_fault (r := .transportError .linkTimeout) ho hr hl hs rfl
  · exact exec_tapReset_fault (r := .transportError .malformed) ho hr hl hs rfl

end Sys2Proof.Machine
end

section
/-! The indicator sink and `ind.pattern`, spec/60_exceptions.md R283 and spec/10_state.md R29: only
two kinds of write touch them, and of the commands' operations only those of `CONFIGURE` and
`SET_INDICATOR` are made of such writes. -/

namespace Sys2Proof.Machine

variable {α β : Type} {allowed : Write → Prop} {i : Instr} {s t u : State}

/-! ### Single writes -/

/-- The pattern is unchanged, and the trace has grown by events that are none of the sink's. -/
def SinkKept (s t : State) : Prop :=
  t.indPattern = s.indPattern
    ∧ ∃ events : List Event, t.trace = events ++ s.trace ∧ ∀ p, .indicator p ∉ events

theorem SinkKept.untouched (hpattern : t.indPattern = s.indPattern) (htrace : t.trace = s.trace) :
    SinkKept s t := ⟨hpattern, [], htrace, fun _ => List.not_mem_nil⟩

theorem SinkKept.recorded {e : Event} (he : ∀ p, .indicator p ≠ e)
    (hpattern : t.indPattern = s.indPattern) (htrace : t.trace = e :: s.trace) : SinkKept s t :=
  ⟨hpattern, [e], htrace, fun p hp => he p (List.mem_singleton.mp hp)⟩

theorem SinkKept.trans (h : SinkKept s t) (h' : SinkKept t u) : SinkKept s u := by
  obtain ⟨hpattern, events, htrace, hnone⟩ := h
  obtain ⟨hpattern', events', htrace', hnone'⟩ := h'
  refine ⟨hpattern'.trans hpattern, events' ++ events, ?_, fun p hp => ?_⟩
  · rw [htrace', htrace, List.append_assoc]
  · exact (List.mem_append.mp hp).elim (hnone' p) (hnone p)

/-- The writes that are neither R283's nor R29's. -/
def Write.sparesSink : Write → Prop
  | .indicator _ | .pattern _ => False
  | _ => True

theorem Write.apply_sinkKept {w : Write} (hw : w.sparesSink) (s : State) :
    SinkKept s (w.apply s) := by
  cases w with
  | indicator | pattern => exact hw.elim
  | tick | clockRead | delay | programPulse | warn | spiExchange =>
    exact .recorded (fun _ h => by cases h) rfl rfl
  | _ => exact .untouched rfl rfl

theorem Reach.sinkKept (hw : ∀ w, allowed w → w.sparesSink) (h : Reach allowed s t) :
    SinkKept s t :=
  Reach.induction (fun _ => .untouched rfl rfl) SinkKept.trans
    (fun w s ha => w.apply_sinkKept (hw w ha) s) h

/-! ### Operations -/

/-- An end without reset that keeps the sink. -/
def EndsSinkKept (s : State) : EStateM.Result Abort State α → Prop
  | .ok _ t | .error (.raised _ _) t => t.resets = [] ∧ SinkKept s t
  | .error _ _ => False

/-- Where no reset comes, an operation keeps the sink, whether it returns or raises. -/
def LeavesSink (m : Engine α) : Prop := ∀ s, s.resets = [] → EndsSinkKept s (m s)

theorem LeavesSink.pure (x : α) : LeavesSink (pure x : Engine α) :=
  fun _ hs => ⟨hs, .untouched rfl rfl⟩

theorem LeavesSink.update {change : State → State} (hr : ∀ s, (change s).resets = s.resets)
    (hk : ∀ s, SinkKept s (change s)) : LeavesSink (update change) :=
  fun s hs => ⟨(hr s).trans hs, hk s⟩

theorem EndsSinkKept.after {r : EStateM.Result Abort State α} (h : SinkKept s t)
    (hr : EndsSinkKept t r) : EndsSinkKept s r := by
  cases r with
  | ok x u => exact ⟨hr.1, h.trans hr.2⟩
  | error e u =>
    cases e with
    | raised => exact ⟨hr.1, h.trans hr.2⟩
    | stuck | reset => exact hr

theorem LeavesSink.bind {m : Engine α} {f : α → Engine β} (hm : LeavesSink m)
    (hf : ∀ x, LeavesSink (f x)) : LeavesSink (m >>= f) := by
  intro s hs
  have h := hm s hs
  rw [bind_run]
  cases hr : m s with
  | ok x t => rw [hr] at h; exact (hf x t h.1).after h.2
  | error e t =>
    rw [hr] at h
    cases e with
    | raised => exact h
    | stuck | reset => exact h.elim

/-- An operation of writes that spare the sink. -/
theorem LeavesSink.within {result : α → Prop} {m : Engine α}
    (hw : ∀ w, allowed w → w.sparesSink) (h : Within allowed result m) : LeavesSink m := by
  intro s hs
  have h := h s
  cases hr : m s with
  | ok x t => rw [hr] at h; exact ⟨h.1.resets_nil hs, h.1.sinkKept hw⟩
  | error e t =>
    rw [hr] at h
    obtain ⟨hreach, he⟩ := h
    have ht := hreach.resets_nil hs
    cases e with
    | raised => exact ⟨ht, hreach.sinkKept hw⟩
    | stuck => exact he.elim
    | reset => simp [Abort.fits, resetDue, ht] at he

/-! ### Commands -/

theorem registers_spareSink (w : Write) (h : w.registers) : w.sparesSink := by
  cases w with
  | indicator | pattern => exact h
  | _ => trivial

theorem sequences_spareSink (w : Write) (h : w.sequences) : w.sparesSink := by
  cases w with
  | indicator | pattern => exact h
  | _ => trivial

theorem transfers_spareSink (w : Write) (h : w.transfers) : w.sparesSink := by
  cases w with
  | indicator | pattern => exact h
  | _ => trivial

theorem LeavesSink.registers {m : Engine α} (h : Within Write.registers anyResult m) :
    LeavesSink m := .within registers_spareSink h

theorem LeavesSink.sequences {m : Engine α} (h : Within Write.sequences anyResult m) :
    LeavesSink m := .within sequences_spareSink h

theorem LeavesSink.transfers {m : Engine α} (h : Within Write.transfers anyResult m) :
    LeavesSink m := .within transfers_spareSink h

theorem LeavesSink.takeOperands (operands : Operand α) : LeavesSink (takeOperands operands) :=
  .sequences (.takeOperands operands)

theorem LeavesSink.refuseIf (condition : Bool) (d : RefusedDetail) :
    LeavesSink (refuseIf condition d) := .sequences (.refuseIf condition d)

theorem LeavesSink.readOwner : LeavesSink (observe State.tapOwner) :=
  .sequences (.observe State.tapOwner)

/-- R140, R141: a write to the session's elements alone touches no sink. -/
theorem LeavesSink.openSession : LeavesSink (Machine.update sessionOpened) :=
  .update (fun _ => rfl) fun _ => .untouched rfl rfl

theorem LeavesSink.releaseSession : LeavesSink (Machine.update sessionReleased) :=
  .update (fun _ => rfl) fun _ => .untouched rfl rfl

/-- R142: a command that checks the owner, then runs an operation. -/
theorem LeavesSink.checked {op : Option Byte} {body : Engine (List Byte)}
    (he : ∀ s, exec i s = commandCycle op (requireOwner >>= fun _ => body) s)
    (h : LeavesSink body) : Runs LeavesSink i :=
  ⟨op, _, he, (readOwner.bind fun _ => .refuseIf _ _).bind fun _ => h⟩

/-- A host command that reads its operands, then runs an operation on them. -/
theorem LeavesSink.operation {op : Byte} {operands : Operand α} {body : α → Engine (List Byte)}
    (he : ∀ s, exec i s = ownedCommand op (Machine.takeOperands operands >>= body) s)
    (h : ∀ x, LeavesSink (body x)) : Runs LeavesSink i :=
  checked he ((takeOperands operands).bind h)

open LeavesSink in
/-- R283, R29: every command but two runs an operation that keeps the sink. -/
theorem runs_leavesSink (i : Instr) (hi : ∀ f, i ≠ .configure f ∧ i ≠ .setIndicator f) :
    Runs LeavesSink i := by
  have hP := pollSleep_pos
  have hs := shifts_sequences
  have hc := commands_sequences
  cases i with
  | configure f => exact absurd rfl (hi f).1
  | setIndicator f => exact absurd rfl (hi f).2
  | acquire f =>
    exact ⟨_, _, fun _ => rfl, readOwner.bind fun _ => (LeavesSink.refuseIf _ _).bind fun _ =>
      (LeavesSink.takeOperands _).bind fun _ => openSession.bind fun _ => .pure _⟩
  | release f => exact operation (fun _ => rfl) fun _ => releaseSession.bind fun _ => .pure _
  | tapReset f => exact operation (fun _ => rfl) fun _ => sequences ((within_tapReset hs).map _)
  | moveToState f =>
    exact operation (fun _ => rfl) fun _ => sequences ((within_moveToState hs _).map _)
  | shiftInstruction f =>
    exact operation (fun _ => rfl) fun _ => sequences ((within_shiftInstruction hs _ _ _).map _)
  | shiftData f => exact operation (fun _ => rfl) fun _ => sequences (within_shiftDataOrdered hs _)
  | runTest f => exact operation (fun _ => rfl) fun _ => sequences ((within_runTest hs _ _).map _)
  | enumerate f => exact operation (fun _ => rfl) fun _ => sequences ((within_enumerate hs _).map _)
  | forceBitbang f =>
    exact operation (fun _ => rfl) fun _ => transfers ((within_setBitbang _).map _)
  | playPattern f => exact checked (fun _ => rfl) <| sequences (.raise _)
  | detectWidths f =>
    exact operation (fun _ => rfl) fun _ => registers ((within_detectWidths _).map _)
  | regTransaction f | regRead f | regWrite f =>
    exact operation (fun _ => rfl) fun _ => registers ((within_regExchange _ _ _ _ _).map _)
  | unconfigure f =>
    exact operation (fun _ => rfl) fun _ => sequences ((within_unconfigure hP).map _)
  | triggerReconfiguration f =>
    exact operation (fun _ => rfl) fun _ => sequences ((within_triggerReconfiguration hc _).map _)
  | readFlashId f => exact operation (fun _ => rfl) fun _ => sequences (within_readFlashId _)
  | readFlashUid f => exact operation (fun _ => rfl) fun _ => sequences (within_readFlashUid _)
  | eraseFlash f =>
    exact operation (fun _ => rfl) fun _ => sequences ((within_eraseFlash hP).map _)
  | flash f => exact operation (fun _ => rfl) fun _ => sequences ((within_flashWrite hP _).map _)
  | readFlash f => exact operation (fun _ => rfl) fun _ => sequences (within_readFlash _ _ _)
  | spiTransfer f => exact operation (fun _ => rfl) fun _ => transfers (within_spiTransfer _ _ _)
  | spiRegTransaction f | spiRegRead f =>
    exact operation (fun _ => rfl) fun _ => transfers (within_spiRegTransaction _ _ _ _)
  | spiRegWrite f =>
    exact operation (fun _ => rfl) fun _ => transfers ((within_spiRegTransaction _ _ _ _).map _)
  | opcReadId => exact checked (fun _ => rfl) <| sequences ((within_readPartId _).map _)
  | opcLscReadStatus => exact checked (fun _ => rfl) <| sequences ((within_readStatus hc _).map _)
  | opcIscEnable => exact checked (fun _ => rfl) <| sequences ((within_iscEnable _).map _)
  | opcIscDisable => exact checked (fun _ => rfl) <| sequences ((within_iscDisable _ _).map _)
  | opcIscErase => exact checked (fun _ => rfl) <| sequences ((within_iscErase hc _).map _)
  | opcLscRefresh =>
    exact checked (fun _ => rfl) <| sequences ((within_execCommand hc _ _ _ _ _ _).map _)
  | opcPreconf => exact checked (fun _ => rfl) <| sequences ((within_preconfigure hc _).map _)
  | opcLscInitAddress =>
    exact checked (fun _ => rfl) <| sequences ((within_initAddress hc _).map _)
  | opcLscBitstreamBurst bitstream =>
    exact checked (fun _ => rfl) <| (LeavesSink.refuseIf _ _).bind fun _ => sequences <|
      (within_burst hc _ _).bind fun _ _ => (within_runTest hs _ _).map _
  | opcLscEnterBackgroundSpi =>
    exact checked (fun _ => rfl) <| sequences ((within_enterBackgroundSpi _).map _)
  | opcVerifyId =>
    exact checked (fun _ => rfl) <| sequences ((within_shiftInstruction hs _ _ _).map _)
  | opcMetaIr word | opcMetaDr word =>
    exact checked (fun _ => rfl) <| (LeavesSink.refuseIf _ _).bind fun _ =>
      sequences ((within_metaShift hs _ _).map _)
  | opcSpiDebug data =>
    exact checked (fun _ => rfl) <| (LeavesSink.refuseIf _ _).bind fun _ =>
      transfers (within_spiTunneled _ _)
  | flReadStatus => exact checked (fun _ => rfl) <| sequences ((within_flashStatus hc _).map _)
  | flJedecId | flWriteEnable | flChipErase | flWritePage | flReadPage | flWriteStatus | flReadUid =>
    exact checked (fun _ => rfl) <| sequences ((within_bgSpiTransfer hc _).map _)

/-- R101, R265: starting and answering a command touch no sink either. -/
theorem LeavesSink.command {op : Option Byte} {body : Engine (List Byte)} (h : LeavesSink body)
    (hs : s.resets = []) (he : commandCycle op body s = .next t) : SinkKept s t := by
  have h := h (beginCommand op s) hs
  rw [commandCycle] at he
  cases hr : body (beginCommand op s) with
  | ok data u => rw [hr] at h he; cases he; exact h.2
  | error e u =>
    rw [hr] at h he
    cases e with
    | raised r record => cases he; exact h.2
    | stuck | reset => exact h.elim

/-- Settles O58: the command's operation keeps the sink, and so does the command. -/
theorem onlyTwoCommandsWriteIndicator : Obligations.OnlyTwoCommandsWriteIndicator := by
  intro i s t hs ht hi
  obtain ⟨op, body, he, hbody⟩ := runs_leavesSink i hi
  exact hbody.command hs ((he s).symm.trans ht)

end Sys2Proof.Machine
end

section
/-! The rows of the wire tables, run by themselves on the issue path (log 3), on a link that answers:
each is the micro-operation of the rule that issues it (log 4, log 5), so it performs that
operation's plan (spec/43_ecp5_sequencer.md R186 to R197, spec/42_register_framer.md R173,
spec/45_spi_debug.md R246, spec/44_spi_bridge_flash.md R216, R217). -/

namespace Sys2Proof.Machine

variable {P : Params} {s : State} {i : Instr} {plan : List Act} {data : List Byte} {r : Raise}
  {e : ErrorRecord} {body : Engine (List Byte)}

/-! ### The issue path -/

/-- R101: in a session, a row whose operation performs a plan. -/
theorem issued_performs (ho : s.tapOwner = true) (hi : exec i s = issuedCommand body s)
    (h : Performs body plan data (beginCommand none s)) (hr : Ready plan s) :
    exec i s = .next (finishCommand data (performed plan s)) :=
  hi.trans (issuedCommand_plan ho (h (ready_beginCommand none hr)))

/-- R265: in a session, a row whose operation performs a plan and then ends in an error. -/
theorem issued_raisesAfter (ho : s.tapOwner = true) (hi : exec i s = issuedCommand body s)
    (h : RaisesAfter body plan r e (beginCommand none s)) (hr : Ready plan s) :
    exec i s = .next (takeError e (performed plan s)) := by
  rw [hi, issuedCommand_owner _ _ ho, h (ready_beginCommand none hr), commandOutcome,
    takeError_performed]

/-! ### Commands without a result, R186 -/

theorem performs_iscErase (c : CommandScans) : Performs (iscErase P) (iscErasePlan P c) () s :=
  iscErase_plan

theorem performs_iscDisable_unchecked (c : CommandScans) :
    Performs (iscDisable P none) (iscDisablePlan P c) () s := iscDisable_plan

/-- R186: an unchecked command whose result is dropped. -/
theorem performs_execCommand_dropped {opc : Byte} {operand : Option BitVector} {idle : Nat}
    {idleState : TapState} (c : CommandScans) :
    Performs (execCommand P opc operand idle idleState none >>= fun _ => pure ([] : List Byte))
      (commandPlan opc operand idle idleState c) [] s := by
  intro h
  obtain ⟨result, hresult⟩ := execCommand_unchecked (P := P) h
  exact bind_ok hresult

/-- Settles O49: each row performs its command's plan and returns nothing. -/
theorem commandRowsIssue : Obligations.CommandRowsIssue := by
  refine fun s c ho => ⟨?disable, ?erase, ?refresh, ?preconf, ?initAddress, ?backgroundSpi⟩
  case disable =>
    exact issued_performs ho rfl ((performs_iscDisable_unchecked c).map fun _ => [])
  case erase => exact issued_performs ho rfl ((performs_iscErase c).map fun _ => [])
  case refresh => exact issued_performs ho rfl (performs_execCommand_dropped c)
  case preconf => exact issued_performs ho rfl ((performs_preconfigure c).map fun _ => [])
  case initAddress => exact issued_performs ho rfl ((performs_initAddress c).map fun _ => [])
  case backgroundSpi =>
    exact issued_performs ho rfl ((performs_enterBackgroundSpi c).map fun _ => [])

/-! ### `OPC_ISC_ENABLE` and its check, R190, R197 -/

/-- R186, R190: a command whose check finds a violation; the record is the one of the state before
it, since the command writes neither `seq.op` nor `seq.phase`. -/
theorem execCommand_violation {opc : Byte} {operand : Option BitVector} {idle : Nat}
    {idleState : TapState} {check : StatusCheck} {c : CommandScans} {status : ScanPair}
    {v : Violation} {rest : List Violation} (hc : check.continueAnyway = false)
    (hv : violations (decodeStatus P status.data.word32) check.requireDone check.requireIsc
      = v :: rest) :
    RaisesAfter (execCommand P opc operand idle idleState (some check))
      (commandPlan opc operand idle idleState c ++ checkPlan P check status)
      (.protocolViolation v (decodeStatus P status.data.word32).errcode status.data.word32)
      (violationRecord P v status.data.word32 s) s := by
  intro h
  obtain ⟨hcommand, hcheck⟩ := ready_append h
  obtain ⟨result, hresult⟩ := execCommand_plan (P := P) (check := some check) hcommand
  have hrecord : violationRecord P v status.data.word32
      (performed (commandPlan opc operand idle idleState c) s)
        = violationRecord P v status.data.word32 s := by
    rw [violationRecord, performed_seqOp, performed_seqPhase (commandPlan_keepsPhase _ _ _ _ _)]
    rfl
  rw [hresult, shiftCheck, performed_append, ← hrecord]
  exact bind_error (checkStatus_violation hc hv hcheck)

theorem performs_setIsc (isc : Bool) : Performs (setIsc isc) [.isc isc] () s := fun _ => rfl

theorem iscEnablePlan_eq (P : Params) (c : CommandScans) (status : ScanPair) :
    iscEnablePlan P c status = [Act.isc true]
      ++ (commandPlan P.opcIscEnable (some P.opdIscEnable) P.nCmdIdle .idle c
        ++ checkPlan P ⟨false, true, false⟩ status) := rfl

/-- R197: `cfg.isc` is set before the command is issued, and stays set where its check fails. -/
theorem iscEnable_violation {c : CommandScans} {status : ScanPair} {v : Violation}
    {rest : List Violation}
    (hv : violations (decodeStatus P status.data.word32) false true = v :: rest) :
    RaisesAfter (iscEnable P) (iscEnablePlan P c status)
      (.protocolViolation v (decodeStatus P status.data.word32).errcode status.data.word32)
      (violationRecord P v status.data.word32 s) s := by
  rw [iscEnablePlan_eq]
  exact (performs_setIsc true).bindRaises <|
    (execCommand_violation (check := ⟨false, true, false⟩) rfl hv).bind _

/-- Settles O50: the check passes, or its first violation ends the command. -/
theorem iscEnableRowChecks : Obligations.IscEnableRowChecks := by
  refine fun s c status ho h => ⟨fun hpass => ?passed, fun v rest hv => ?failed⟩
  case passed =>
    exact issued_performs ho rfl ((performs_iscEnable (.inr hpass)).map fun _ => []) h
  case failed => exact issued_raisesAfter ho rfl ((iscEnable_violation hv).bind _) h

/-! ### Rows that read, R187, R194, R53 -/

theorem performs_readStatus (c : ScanPair) :
    Performs (readStatus P) (statusPlan P c) c.data.word32 s := readStatus_plan

theorem performs_shiftInstruction (opc length : Nat) (stateAfter : TapState) (c : Scan) :
    Performs (shiftInstruction opc length stateAfter) [.instruction opc length stateAfter c]
      (ofBits c.word) s := fun h => shiftInstruction_act (ready_single h)

/-- Settles O51: each row performs its read and returns what was captured. -/
theorem readRowsAnswer : Obligations.ReadRowsAnswer := by
  refine fun s c ho => ⟨fun hzeros hones => ?identity, ?status, fun h => ?captured⟩
  case identity =>
    have hdevice : noDeviceId c.data.word32 = false := noDeviceId_eq_false ⟨hzeros, hones⟩
    exact issued_performs ho rfl ((performs_readPartId hdevice).map be4)
  case status => exact issued_performs ho rfl ((performs_readStatus c).map be4)
  case captured =>
    have hbyte : muxIn .native (ofBits c.instruction.word)
        = beBytes 1 (valueOfBits c.instruction.word) := muxIn_native (word_length_of_instruction h)
    rw [← hbyte]
    exact issued_performs ho rfl ((performs_shiftInstruction _ _ _ _).map (muxIn .native)) h

/-! ### Rows that shift the frame's bytes, R91, R173, R246 -/

theorem performs_metaShift (opc : Byte) (word : BitVector) (c : ScanPair) :
    Performs (metaShift opc word) (metaPlan opc word c) (ofBits c.data.word) s := metaShift_plan

theorem performs_spiTunneled (data : List Byte) (c : ScanPair) :
    Performs (spiTunneled P data) (tunnelPlan P data c) c.data.wireBytes s := spiTunneled_plan

/-- R96: the length test of a row that carries bytes passes, and makes no step. -/
theorem performs_refuseEmpty {bytes : List Byte} (hb : bytes ≠ []) :
    Performs (refuseIf bytes.isEmpty .badLength) [] () s := by
  rw [refuseIf_passed (List.isEmpty_eq_false_iff.mpr hb)]
  exact fun _ => rfl

/-- Settles O52: past the length test each row performs the plan of its data shift. -/
theorem dataRowsShift : Obligations.DataRowsShift := by
  refine fun s bytes c ho hb => ⟨?metaIr, ?metaDr, ?spiDebug, fun idle => ?burst⟩
  case metaIr | metaDr =>
    exact issued_performs ho rfl <| (performs_refuseEmpty hb).bind <|
      (performs_metaShift _ _ c).map fun captured => toBytes captured .big
  case spiDebug =>
    exact issued_performs ho rfl <| (performs_refuseEmpty hb).bind (performs_spiTunneled bytes c)
  case burst =>
    exact issued_performs ho rfl <| (performs_refuseEmpty hb).bind <|
      (performs_burst bytes c).bind <| (performs_runTest _ _ idle).map fun _ => []

/-! ### The flash command rows, R94, R217 -/

theorem performs_flashStatus (c : Scan) :
    Performs (flashStatus P) (flashStatusPlan P c) c.flashStatusByte s := flashStatus_plan

/-- R94: a page frame carries a 24-bit address as it is. -/
theorem writePageFrame_toNat (P : Params) (addr : BitVec 24) (data : List Byte) :
    writePageFrame P addr.toNat data = P.flWritePage :: be3 addr ++ data := by
  rw [writePageFrame, BitVec.ofNat_toNat, BitVec.setWidth_eq]

theorem readPageFrame_toNat (P : Params) (addr : BitVec 24) (count : Nat) :
    readPageFrame P addr.toNat count = P.flReadPage :: be3 addr ++ List.replicate count 0x00#8 := by
  rw [readPageFrame, BitVec.ofNat_toNat, BitVec.setWidth_eq]

/-- R217: a row that is one transaction of a frame, whose result is read off the response. -/
theorem issued_transfer {frame : List Byte} {c : Scan} {g : List Byte → List Byte}
    (ho : s.tapOwner = true)
    (hi : exec i s = issuedCommand (bgSpiTransfer frame >>= fun response => pure (g response)) s)
    (hr : Ready (transferPlan frame c) s) :
    exec i s = .next (finishCommand (g c.wireBytes) (performed (transferPlan frame c) s)) :=
  issued_performs ho hi ((performs_bgSpiTransfer frame c).map g) hr

/-- Settles O53: each row is one transaction of its frame in R94, and returns the bytes that R94 uses
of the response. -/
theorem flashRowsTransact : Obligations.FlashRowsTransact := by
  refine fun s c ho => ⟨?jedecId, ?writeEnable, ?chipErase, fun addr data => ?writePage,
    fun addr count => ?readPage, ?readStatus, ?writeStatus, ?readUid⟩
  case jedecId => exact issued_transfer (g := jedecBytes) ho rfl
  case writeEnable | chipErase | writeStatus => exact issued_transfer (g := fun _ => []) ho rfl
  case writePage =>
    rw [← writePageFrame_toNat]
    exact issued_transfer (g := fun _ => []) ho rfl
  case readPage =>
    rw [← readPageFrame_toNat]
    exact issued_transfer (g := pageData) ho rfl
  case readStatus =>
    exact issued_performs ho rfl ((performs_flashStatus c).map fun status => [status])
  case readUid => exact issued_transfer (g := uidBytes) ho rfl

end Sys2Proof.Machine
end
